-- ==== Sys2Proof/Word.lean ====
section
/-! DEFINITION. The two data types of the hardware: the 32-bit word and the 8-bit byte (00_scope.md rules R4, R5).

Word addition is `BitVec`'s own `+`, which is addition modulo 2^32 and sets no flag (rule R6); `AND`, `OR`, `XOR`, `NOT`
are `&&&`, `|||`, `^^^`, `~~~` (rule R9). Rotations and shifts stand in Machine/Functions.lean. -/

namespace Sys2Proof

/-- An unsigned 32-bit word (rules R4, R5: WORD_BITS = 32). -/
abbrev Word := BitVec 32

/-- An unsigned 8-bit byte, the unit of addressing (rules R4, R61: BYTE_BITS = 8). -/
abbrev Byte := BitVec 8

end Sys2Proof
end

