-- ==== Sys2Proof/Machine/Functions.lean ====
section
/-! DEFINITION. The pure functions of SHA-256: the word functions of the schedule and of the rounds, the round, and the functions
of a whole message (`padMessage`, `schedule`, `rounds64`, `compressBuffer`, `encodeHex`, `hashMessage`). The micro-operations call the word functions and
the round; the whole-message functions are what a command's result is stated with. -/

namespace Sys2Proof.Machine

/-! ## Rotation and shift (00_scope.md rules R7, R8) -/

/-- `ROTR(x, n)`, for 0 < n < 32 (00_scope.md rule R7). -/
def rotr (x : Word) (n : Nat) : Word :=
  (x >>> n) ||| (x <<< (32 - n))

/-- `x >> n`, the logical shift (00_scope.md rule R8). -/
def shr (x : Word) (n : Nat) : Word :=
  x >>> n

/-! ## The constants (10_state.md rules R23, R24) -/

/-- IV[0..7], the initial constants (10_state.md rule R23). -/
def ivTable : Vector Word 8 :=
  #v[0x6a09e667#32, 0xbb67ae85#32, 0x3c6ef372#32, 0xa54ff53a#32, 0x510e527f#32, 0x9b05688c#32, 0x1f83d9ab#32, 0x5be0cd19#32]

/-- K[0..63] as a list, eight words a row as the spec prints them (10_state.md rule R24). -/
def kList : List Word :=
  [0x428a2f98#32, 0x71374491#32, 0xb5c0fbcf#32, 0xe9b5dba5#32, 0x3956c25b#32, 0x59f111f1#32, 0x923f82a4#32, 0xab1c5ed5#32] ++
  [0xd807aa98#32, 0x12835b01#32, 0x243185be#32, 0x550c7dc3#32, 0x72be5d74#32, 0x80deb1fe#32, 0x9bdc06a7#32, 0xc19bf174#32] ++
  [0xe49b69c1#32, 0xefbe4786#32, 0x0fc19dc6#32, 0x240ca1cc#32, 0x2de92c6f#32, 0x4a7484aa#32, 0x5cb0a9dc#32, 0x76f988da#32] ++
  [0x983e5152#32, 0xa831c66d#32, 0xb00327c8#32, 0xbf597fc7#32, 0xc6e00bf3#32, 0xd5a79147#32, 0x06ca6351#32, 0x14292967#32] ++
  [0x27b70a85#32, 0x2e1b2138#32, 0x4d2c6dfc#32, 0x53380d13#32, 0x650a7354#32, 0x766a0abb#32, 0x81c2c92e#32, 0x92722c85#32] ++
  [0xa2bfe8a1#32, 0xa81a664b#32, 0xc24b8b70#32, 0xc76c51a3#32, 0xd192e819#32, 0xd6990624#32, 0xf40e3585#32, 0x106aa070#32] ++
  [0x19a4c116#32, 0x1e376c08#32, 0x2748774c#32, 0x34b0bcb5#32, 0x391c0cb3#32, 0x4ed8aa4a#32, 0x5b9cca4f#32, 0x682e6ff3#32] ++
  [0x748f82ee#32, 0x78a5636f#32, 0x84c87814#32, 0x8cc70208#32, 0x90befffa#32, 0xa4506ceb#32, 0xbef9a3f7#32, 0xc67178f2#32]

/-- K[0..63], the round constants (10_state.md rule R24). -/
def kTable : Vector Word 64 :=
  ⟨kList.toArray, rfl⟩

/-! ## The schedule's functions (41_schedule.md) -/

/-- `σ0` (41_schedule.md rule R140). -/
def sigma0 (x : Word) : Word :=
  rotr x 7 ^^^ rotr x 18 ^^^ shr x 3

/-- `σ1` (41_schedule.md rule R141). -/
def sigma1 (x : Word) : Word :=
  rotr x 17 ^^^ rotr x 19 ^^^ shr x 10

/-- The right side of MSX.EXP: `W[t-16] + σ0(W[t-15]) + W[t-7] + σ1(W[t-2])` (41_schedule.md rule R143). -/
def expandWord (wt16 wt15 wt7 wt2 : Word) : Word :=
  wt16 + sigma0 wt15 + wt7 + sigma1 wt2

/-! ## The round's functions (42_round_engine.md) -/

/-- `Ch` (42_round_engine.md rule R155). -/
def ch (x y z : Word) : Word :=
  (x &&& y) ^^^ (~~~x &&& z)

/-- `Maj` (42_round_engine.md rule R156). -/
def maj (x y z : Word) : Word :=
  (x &&& y) ^^^ (x &&& z) ^^^ (y &&& z)

/-- `Σ0` (42_round_engine.md rule R157). -/
def bigSigma0 (x : Word) : Word :=
  rotr x 2 ^^^ rotr x 13 ^^^ rotr x 22

/-- `Σ1` (42_round_engine.md rule R158). -/
def bigSigma1 (x : Word) : Word :=
  rotr x 6 ^^^ rotr x 11 ^^^ rotr x 25

/-- T1 of a round on v = (a, b, c, d, e, f, g, h) (42_round_engine.md rules R160, R161). -/
def roundT1 (v : Vector Word 8) (k w : Word) : Word :=
  v[7] + bigSigma1 v[4] + ch v[4] v[5] v[6] + k + w

/-- T2 of a round (42_round_engine.md rules R160, R161). -/
def roundT2 (v : Vector Word 8) : Word :=
  bigSigma0 v[0] + maj v[0] v[1] v[2]

/-- `round(v, k, w)`: the new (a, ..., h) in terms of the old ones (42_round_engine.md rule R161). -/
def oneRound (v : Vector Word 8) (k w : Word) : Vector Word 8 :=
  #v[roundT1 v k w + roundT2 v, v[0], v[1], v[2], v[3] + roundT1 v k w, v[4], v[5], v[6]]

/-- Eight independent additions modulo 2^32, word by word (43_accumulator.md rule R177). -/
def addWords (x y : Vector Word 8) : Vector Word 8 :=
  #v[x[0] + y[0], x[1] + y[1], x[2] + y[2], x[3] + y[3], x[4] + y[4], x[5] + y[5], x[6] + y[6], x[7] + y[7]]

/-! ## The hex encoder's functions (44_hex_encoder.md) -/

/-- `hexchar(n)`: the ASCII code of a nibble, lowercase (30_encoding.md rule R97). -/
def hexChar (n : BitVec 4) : Byte :=
  if n.toNat ≤ 9 then BitVec.ofNat 8 (0x30 + n.toNat) else BitVec.ofNat 8 (0x57 + n.toNat)

/-- Nibble `n` of a word, the most significant first: `w[31-4n : 28-4n]` (30_encoding.md rule R98). -/
def nibble (x : Word) (n : Nat) : BitVec 4 :=
  x.extractLsb' (28 - 4 * n) 4

/-- `hex8(w)`: the 8 characters of a word (44_hex_encoder.md rule R190). -/
def hex8 (x : Word) : List Byte :=
  (List.range 8).map fun n => hexChar (nibble x n)

/-! ## Bytes and numbers, big-endian (20_memory.md rule R62) -/

/-- The `n` bytes of a number, the most significant first. -/
def bytesOf : (n : Nat) → Nat → List Byte
  | 0, _ => []
  | n + 1, v => BitVec.ofNat 8 (v / 256 ^ n) :: bytesOf n v

/-- The number a byte string reads as, the first byte the most significant. -/
def numberOf : List Byte → Nat
  | [] => 0
  | b :: bs => b.toNat * 256 ^ bs.length + numberOf bs

/-- The big-endian word of a byte string of 4 bytes (`be32`, 20_memory.md rule R62). -/
def be32 (bs : List Byte) : Word :=
  BitVec.ofNat 32 (numberOf bs)

/-- `bitlen = (8 * L)[31:0]`, the populated half of the length field (40_padder.md rule R125, 30_encoding.md rule R96). -/
def bitLength (len : Nat) : BitVec 32 :=
  BitVec.ofNat 32 (8 * len)

/-! ## The functions of a whole message -/

/-- `pad(m)`, with no value for 2^29 bytes or more (40_padder.md rule R120; layout 30_encoding.md rules R103, R96). -/
def padMessage (m : List Byte) : Option (List Byte) :=
  if m.length < 2 ^ 29 then
    some (m ++ [0x80#8] ++ List.replicate ((119 - m.length % 64) % 64) 0x00#8 ++ List.replicate 4 0x00#8 ++
      bytesOf 4 (8 * m.length))
  else none

/-- The first `n` words of a block: word `t` from bytes `4t` to `4t + 3` (41_schedule.md rule R144, 30_encoding.md rule R95). -/
def blockWords (block : List Byte) : List Word :=
  (List.range 16).map fun t => be32 ((block.drop (4 * t)).take 4)

/-- A schedule prefix extended by `n` more words, each from the words 16, 15, 7 and 2 before it (41_schedule.md rule R144). -/
def extendSchedule : Nat → List Word → List Word
  | 0, ws => ws
  | n + 1, ws =>
    extendSchedule n (ws ++ [expandWord (ws.getD (ws.length - 16) 0) (ws.getD (ws.length - 15) 0)
      (ws.getD (ws.length - 7) 0) (ws.getD (ws.length - 2) 0)])

/-- `schedule(B)`: the 64 words of a block (41_schedule.md rule R144). -/
def schedule (block : List Byte) : List Word :=
  extendSchedule 48 (blockWords block)

/-- The first `n` rounds: `v(j+1) = round(vj, K[j], W[j])` (42_round_engine.md rule R161). -/
def roundsTo (v : Vector Word 8) (ws : List Word) : Nat → Vector Word 8
  | 0 => v
  | j + 1 => oneRound (roundsTo v ws j) (kList.getD j 0) (ws.getD j 0)

/-- `rounds64(v, W)` (42_round_engine.md rule R161). -/
def rounds64 (v : Vector Word 8) (ws : List Word) : Vector Word 8 :=
  roundsTo v ws 64

/-- `compress_block(h, B)` (43_accumulator.md rule R178). -/
def compressBlock (h : Vector Word 8) (block : List Byte) : Vector Word 8 :=
  addWords h (rounds64 h (schedule block))

/-- The hash state after `n` blocks of a buffer (43_accumulator.md rule R179). -/
def compressTo (p : List Byte) : Nat → Vector Word 8
  | 0 => ivTable
  | b + 1 => compressBlock (compressTo p b) ((p.drop (64 * b)).take 64)

/-- `compress(P)`, with no value where the length is not a multiple of 64 (43_accumulator.md rule R179). -/
def compressBuffer (p : List Byte) : Option (Vector Word 8) :=
  if p.length % 64 = 0 then some (compressTo p (p.length / 64)) else none

/-- `encode_hex(h)`: the 64 characters, word 0 first (44_hex_encoder.md rule R192). -/
def encodeHex (h : Vector Word 8) : List Byte :=
  h.toList.flatMap hex8

/-- `hash(m) = encode_hex(compress(pad(m)))` (45_host_commands.md rule R222). -/
def hashMessage (m : List Byte) : Option (List Byte) :=
  (padMessage m).bind fun p => (compressBuffer p).map encodeHex

/-- The bytes of a quoted string of the source: ASCII codes, no terminator (00_scope.md rule R12). -/
def asciiBytes (text : String) : List Byte :=
  text.toList.map fun c => BitVec.ofNat 8 c.toNat

end Sys2Proof.Machine
end

