-- ==== Sys2Proof/Config.lean ====
section
/-! DEFINITION. What the hardware fixes (the sizes of 00_scope.md rule R4), the three byte spaces (20_memory.md rule R60),
and the free values: what the spec leaves open, as constants with no body. -/

namespace Sys2Proof

/-- The three byte-addressed spaces, each with its own address 0 (20_memory.md rule R60). -/
inductive Space where
  | msg
  | pbuf
  | hex
  deriving DecidableEq, Repr

namespace Config

/-- Bytes of one block (R4 BLOCK_BYTES). -/
def blockBytes : Nat := 64

/-- Words of one block (R4 BLOCK_WORDS). -/
def blockWords : Nat := 16

/-- Words of the message schedule (R4 SCHED_WORDS). -/
def schedWords : Nat := 64

/-- Rounds per block (R4 ROUNDS). -/
def rounds : Nat := 64

/-- Words of the hash state (R4 STATE_WORDS). -/
def stateWords : Nat := 8

/-- Bytes of the length field (R4 LEN_FIELD_BYTES). -/
def lenFieldBytes : Nat := 8

/-- Populated bits of the length field (R4 LEN_POPULATED_BITS). -/
def lenPopulatedBits : Nat := 32

/-- Characters of the hex digest (R4 HEX_CHARS). -/
def hexChars : Nat := 64

/-- The longest message the hardware hashes, in bytes (R4 MAX_MSG_BYTES, boundary of 90_conflicts.md C2). -/
def maxMsgBytes : Nat := 2 ^ 29 - 1

/-- Locations of each space (20_memory.md R60, 10_state.md R26, R27, R25). -/
def spaceSize : Space → Nat
  | .msg => 2 ^ 29
  | .pbuf => 2 ^ 30
  | .hex => 64

/-- FREE VALUE. What word `i` of H holds at power-on (93_implementation_defined.md U1; DESIGN CHOICE, log entry 4). -/
opaque powerOnH : Nat → Word

/-- FREE VALUE. What word `i` of V holds at power-on (93_implementation_defined.md U1; DESIGN CHOICE, log entry 4). -/
opaque powerOnV : Nat → Word

/-- FREE VALUE. What word `i` of W holds at power-on (93_implementation_defined.md U1; DESIGN CHOICE, log entry 4). -/
opaque powerOnW : Nat → Word

/-- FREE VALUE. What a byte of a space reads as while nothing has written it since power-on: one value per location,
held until written (93_implementation_defined.md U1; DESIGN CHOICE, log entry 5). -/
opaque powerOnByte : Space → Nat → Byte

/-- FREE VALUE. What the `n`-th host read with no defined value returns: a fresh draw of 64 bits
(93_implementation_defined.md U2; DESIGN CHOICE, log entry 3). -/
opaque unspecifiedRead : Nat → BitVec 64

end Config

end Sys2Proof
end

