-- ==== Sys2Proof/Syntax.lean ====
section
/-! DEFINITION. The instruction set as syntax: one constructor of `Instr` per row of spec/opcode_table.json (40 rows: 8 command
codes, 16 sequencer phases, 16 host accesses), and the three control formats of 30_encoding.md rule R90.

The fields `addr` and `data` keep every bit of a host access record, the ignored ones too (30_encoding.md rule R92), so that
nothing of an encoding is dropped. A command and a micro-operation have no operand field (rules R90, R91). -/

namespace Sys2Proof

/-- A host access record `{wr, sel, addr, data}` (30_encoding.md rule R92), used for a request and, in the same shape, for the
reply to a read. -/
structure Access where
  /-- 1 write, 0 read. -/
  wr : BitVec 1
  /-- Which register or window. -/
  sel : BitVec 3
  /-- Element or byte address inside a window. -/
  addr : BitVec 30
  /-- The value written, or on a read the value returned. -/
  data : BitVec 64
  deriving DecidableEq, Repr

/-- The eight codes of the CMD port (30_encoding.md rule R91), the two reserved ones included (rule R99). -/
inductive Command where
  | nop
  | hash
  | pad
  | compress
  | encode
  | reserved5
  | reserved6
  | rst
  deriving DecidableEq, Repr

/-- The sixteen codes of the PHASE register (30_encoding.md rule R93). PHASE holds one of the fifteen named values; `reserved14`
is the sixteenth code, which no transition produces (rule R99; DESIGN CHOICE, log entry 7). -/
inductive Phase where
  | idle
  | padChk
  | padCopy
  | padMark
  | padZero
  | padLen
  | cmpChk
  | accIv
  | msxLoad
  | msxExp
  | rndInit
  | rndStep
  | accAdd
  | hexEnc
  | reserved14
  | fault
  deriving DecidableEq, Repr

/-- An instruction: one constructor per row of spec/opcode_table.json. -/
inductive Instr where
  -- CMD, 3 bits: commands (45_host_commands.md rules R200 to R206)
  | nop
  | hash
  | pad
  | compress
  | encode
  | cmdReserved5
  | cmdReserved6
  | rst
  -- PHASE, 4 bits: the sequencer's micro-operations (30_encoding.md rule R93)
  | idle
  | padChk
  | padCopy
  | padMark
  | padZero
  | padLen
  | cmpChk
  | accIv
  | msxLoad
  | msxExp
  | rndInit
  | rndStep
  | accAdd
  | hexEnc
  | phaseReserved14
  | fault
  -- ACC, 98 bits: host accesses (45_host_commands.md rules R210 to R221)
  | wrCmd (addr : BitVec 30) (data : BitVec 64)
  | rdCmd (addr : BitVec 30) (data : BitVec 64)
  | rdStatus (addr : BitVec 30) (data : BitVec 64)
  | wrStatus (addr : BitVec 30) (data : BitVec 64)
  | wrMsgLen (addr : BitVec 30) (data : BitVec 64)
  | rdMsgLen (addr : BitVec 30) (data : BitVec 64)
  | wrPlen (addr : BitVec 30) (data : BitVec 64)
  | rdPlen (addr : BitVec 30) (data : BitVec 64)
  | wrMsg (addr : BitVec 30) (data : BitVec 64)
  | rdMsg (addr : BitVec 30) (data : BitVec 64)
  | wrPbuf (addr : BitVec 30) (data : BitVec 64)
  | rdPbuf (addr : BitVec 30) (data : BitVec 64)
  | rdH (addr : BitVec 30) (data : BitVec 64)
  | wrH (addr : BitVec 30) (data : BitVec 64)
  | rdHex (addr : BitVec 30) (data : BitVec 64)
  | wrHex (addr : BitVec 30) (data : BitVec 64)
  deriving DecidableEq, Repr

/-- An encoded instruction in one of the three control formats (30_encoding.md rule R90). -/
inductive Encoded where
  | cmd (code : BitVec 3)
  | phase (code : BitVec 4)
  | acc (word : BitVec 98)
  deriving DecidableEq, Repr

/-- A row of spec/opcode_table.json: how many bits it has, which of them select it, and the value they have. -/
structure TableRow where
  nbits : Nat
  mask : Nat
  pattern : Nat
  deriving DecidableEq, Repr

/-- Why bits are no instruction: both reasons are about the length of the bits, since every code of the three formats has a row. -/
inductive DecodeError where
  /-- No control format has this many bits (30_encoding.md rules R90, R100). -/
  | noSuchFormat (nbits : Nat)
  /-- The number does not fit in the format's bits. -/
  | bitsBeyondFormat (nbits : Nat) (bits : Nat)
  deriving DecidableEq, Repr

end Sys2Proof
end

