-- ==== Sys2Proof/WellFormed.lean ====
section
/-! DEFINITION. When an instruction is well formed: a host access addresses a location that its window has.

The widths of the fields are in their types. What is left to check is the range of `addr` that 30_encoding.md rule R94 states
("for MSG it must be below 2^29, for H below 8, for HEX below 64"; PBUF takes all 30 bits, and the accesses to registers and to
read-only windows do not use `addr`). An instruction that is not well formed still has a meaning, which the spec gives
(a write ignored, an unspecified value read; 45_host_commands.md rules R212, R217, R219, R220). -/

namespace Sys2Proof

/-- The address is inside the window the access reads or writes (30_encoding.md rule R94). -/
def Instr.wellFormed : Instr → Bool
  | .wrMsg addr _ => decide (addr.toNat < Config.spaceSize .msg)
  | .rdMsg addr _ => decide (addr.toNat < Config.spaceSize .msg)
  | .wrPbuf addr _ => decide (addr.toNat < Config.spaceSize .pbuf)
  | .rdPbuf addr _ => decide (addr.toNat < Config.spaceSize .pbuf)
  | .rdH addr _ => decide (addr.toNat < Config.stateWords)
  | .rdHex addr _ => decide (addr.toNat < Config.spaceSize .hex)
  | .nop => true
  | .hash => true
  | .pad => true
  | .compress => true
  | .encode => true
  | .cmdReserved5 => true
  | .cmdReserved6 => true
  | .rst => true
  | .idle => true
  | .padChk => true
  | .padCopy => true
  | .padMark => true
  | .padZero => true
  | .padLen => true
  | .cmpChk => true
  | .accIv => true
  | .msxLoad => true
  | .msxExp => true
  | .rndInit => true
  | .rndStep => true
  | .accAdd => true
  | .hexEnc => true
  | .phaseReserved14 => true
  | .fault => true
  | .wrCmd _ _ => true
  | .rdCmd _ _ => true
  | .rdStatus _ _ => true
  | .wrStatus _ _ => true
  | .wrMsgLen _ _ => true
  | .rdMsgLen _ _ => true
  | .wrPlen _ _ => true
  | .rdPlen _ _ => true
  | .wrH _ _ => true
  | .wrHex _ _ => true

end Sys2Proof
end

