-- ==== Sys2Proof/Decode.lean ====
section
/-! DEFINITION. The decoder and the encoder of the three control formats (30_encoding.md rules R91, R92, R93), and
`decodeTableWord`, the decoder on a number of so many bits.

Each decoder matches on the bits the spec's tables print, most significant first, and leaves no case to a default. -/

namespace Sys2Proof

/-! ## CMD, 3 bits (rule R91) -/

/-- The command of a code `c[2:0]` (30_encoding.md rule R91; codes 5 and 6 reserved, rule R99). -/
def Command.ofCode (c : BitVec 3) : Command :=
  match c.getLsbD 2, c.getLsbD 1, c.getLsbD 0 with
  | false, false, false => .nop
  | false, false, true => .hash
  | false, true, false => .pad
  | false, true, true => .compress
  | true, false, false => .encode
  | true, false, true => .reserved5
  | true, true, false => .reserved6
  | true, true, true => .rst

/-- The code of a command (30_encoding.md rule R91). -/
def Command.code : Command → BitVec 3
  | .nop => 0b000#3
  | .hash => 0b001#3
  | .pad => 0b010#3
  | .compress => 0b011#3
  | .encode => 0b100#3
  | .reserved5 => 0b101#3
  | .reserved6 => 0b110#3
  | .rst => 0b111#3

/-- The instruction of a command: its row of the opcode table. -/
def Command.instr : Command → Instr
  | .nop => .nop
  | .hash => .hash
  | .pad => .pad
  | .compress => .compress
  | .encode => .encode
  | .reserved5 => .cmdReserved5
  | .reserved6 => .cmdReserved6
  | .rst => .rst

/-! ## PHASE, 4 bits (rule R93) -/

/-- The phase of a code (30_encoding.md rule R93; code 14 reserved, rule R99). -/
def Phase.ofCode (c : BitVec 4) : Phase :=
  match c.getLsbD 3, c.getLsbD 2, c.getLsbD 1, c.getLsbD 0 with
  | false, false, false, false => .idle
  | false, false, false, true => .padChk
  | false, false, true, false => .padCopy
  | false, false, true, true => .padMark
  | false, true, false, false => .padZero
  | false, true, false, true => .padLen
  | false, true, true, false => .cmpChk
  | false, true, true, true => .accIv
  | true, false, false, false => .msxLoad
  | true, false, false, true => .msxExp
  | true, false, true, false => .rndInit
  | true, false, true, true => .rndStep
  | true, true, false, false => .accAdd
  | true, true, false, true => .hexEnc
  | true, true, true, false => .reserved14
  | true, true, true, true => .fault

/-- The code of a phase (30_encoding.md rule R93). -/
def Phase.code : Phase → BitVec 4
  | .idle => 0b0000#4
  | .padChk => 0b0001#4
  | .padCopy => 0b0010#4
  | .padMark => 0b0011#4
  | .padZero => 0b0100#4
  | .padLen => 0b0101#4
  | .cmpChk => 0b0110#4
  | .accIv => 0b0111#4
  | .msxLoad => 0b1000#4
  | .msxExp => 0b1001#4
  | .rndInit => 0b1010#4
  | .rndStep => 0b1011#4
  | .accAdd => 0b1100#4
  | .hexEnc => 0b1101#4
  | .reserved14 => 0b1110#4
  | .fault => 0b1111#4

/-- The instruction of a phase: the micro-operation executed while PHASE holds it (30_encoding.md rule R93). -/
def Phase.instr : Phase → Instr
  | .idle => .idle
  | .padChk => .padChk
  | .padCopy => .padCopy
  | .padMark => .padMark
  | .padZero => .padZero
  | .padLen => .padLen
  | .cmpChk => .cmpChk
  | .accIv => .accIv
  | .msxLoad => .msxLoad
  | .msxExp => .msxExp
  | .rndInit => .rndInit
  | .rndStep => .rndStep
  | .accAdd => .accAdd
  | .hexEnc => .hexEnc
  | .reserved14 => .phaseReserved14
  | .fault => .fault

/-! ## ACC, 98 bits (rule R92) -/

/-- The fields of a packed access: `wr` at bit 97, `sel` at 96:94, `addr` at 93:64, `data` at 63:0 (30_encoding.md rule R92). -/
def Access.unpack (word : BitVec 98) : Access where
  wr := word.extractLsb' 97 1
  sel := word.extractLsb' 94 3
  addr := word.extractLsb' 64 30
  data := word.extractLsb' 0 64

/-- An access packed as a 98-bit word (30_encoding.md rule R92). -/
def Access.pack (a : Access) : BitVec 98 :=
  a.wr ++ a.sel ++ a.addr ++ a.data

/-- The instruction of an access record: the header `{wr, sel}` alone selects it (30_encoding.md rule R92). -/
def Access.instr (a : Access) : Instr :=
  match a.wr.getLsbD 0, a.sel.getLsbD 2, a.sel.getLsbD 1, a.sel.getLsbD 0 with
  | true, false, false, false => .wrCmd a.addr a.data
  | false, false, false, false => .rdCmd a.addr a.data
  | false, false, false, true => .rdStatus a.addr a.data
  | true, false, false, true => .wrStatus a.addr a.data
  | true, false, true, false => .wrMsgLen a.addr a.data
  | false, false, true, false => .rdMsgLen a.addr a.data
  | true, false, true, true => .wrPlen a.addr a.data
  | false, false, true, true => .rdPlen a.addr a.data
  | true, true, false, false => .wrMsg a.addr a.data
  | false, true, false, false => .rdMsg a.addr a.data
  | true, true, false, true => .wrPbuf a.addr a.data
  | false, true, false, true => .rdPbuf a.addr a.data
  | false, true, true, false => .rdH a.addr a.data
  | true, true, true, false => .wrH a.addr a.data
  | false, true, true, true => .rdHex a.addr a.data
  | true, true, true, true => .wrHex a.addr a.data

/-! ## The decoder -/

/-- The instruction of an encoded instruction: total, since every code of the three formats is a row of the opcode table. -/
def decode : Encoded → Instr
  | .cmd code => (Command.ofCode code).instr
  | .phase code => (Phase.ofCode code).instr
  | .acc word => (Access.unpack word).instr

/-- The encoded instruction that a number `bits` of `nbits` bits is, rejecting by name. The widths are those of the formats, 3, 4
and 98 (30_encoding.md rule R90), and in whole bytes 8 and 104; eight bits are read as a PHASE code (DESIGN CHOICE, log entry 10). -/
def Encoded.ofBits (nbits bits : Nat) : Except DecodeError Encoded :=
  match nbits with
  | 3 => if bits < 2 ^ 3 then .ok (.cmd (BitVec.ofNat 3 bits)) else .error (.bitsBeyondFormat 3 bits)
  | 4 => if bits < 2 ^ 4 then .ok (.phase (BitVec.ofNat 4 bits)) else .error (.bitsBeyondFormat 4 bits)
  | 8 => if bits < 2 ^ 4 then .ok (.phase (BitVec.ofNat 4 bits)) else .error (.bitsBeyondFormat 8 bits)
  | 98 => if bits < 2 ^ 98 then .ok (.acc (BitVec.ofNat 98 bits)) else .error (.bitsBeyondFormat 98 bits)
  | 104 => if bits < 2 ^ 98 then .ok (.acc (BitVec.ofNat 98 bits)) else .error (.bitsBeyondFormat 104 bits)
  | n => .error (.noSuchFormat n)

/-- The instruction a number `bits` of `nbits` bits encodes, rejecting by name. -/
def decodeWord (nbits bits : Nat) : Except DecodeError Instr :=
  match Encoded.ofBits nbits bits with
  | .ok e => .ok (decode e)
  | .error r => .error r

/-- The instruction the decoder reads from the bits `w` of a row of spec/opcode_table.json that has `nbits` bits. -/
def decodeTableWord (nbits w : Nat) : Option Instr :=
  match decodeWord nbits w with
  | .ok i => some i
  | .error _ => none

/-! ## The encoder -/

/-- The encoded instruction of a host access with the given header bits. -/
def encodeAccess (wr : BitVec 1) (sel : BitVec 3) (addr : BitVec 30) (data : BitVec 64) : Encoded :=
  .acc (Access.pack { wr := wr, sel := sel, addr := addr, data := data })

/-- The encoding of an instruction, from the tables of 30_encoding.md rules R91, R92 and R93. -/
def encode : Instr → Encoded
  | .nop => .cmd 0b000#3
  | .hash => .cmd 0b001#3
  | .pad => .cmd 0b010#3
  | .compress => .cmd 0b011#3
  | .encode => .cmd 0b100#3
  | .cmdReserved5 => .cmd 0b101#3
  | .cmdReserved6 => .cmd 0b110#3
  | .rst => .cmd 0b111#3
  | .idle => .phase 0b0000#4
  | .padChk => .phase 0b0001#4
  | .padCopy => .phase 0b0010#4
  | .padMark => .phase 0b0011#4
  | .padZero => .phase 0b0100#4
  | .padLen => .phase 0b0101#4
  | .cmpChk => .phase 0b0110#4
  | .accIv => .phase 0b0111#4
  | .msxLoad => .phase 0b1000#4
  | .msxExp => .phase 0b1001#4
  | .rndInit => .phase 0b1010#4
  | .rndStep => .phase 0b1011#4
  | .accAdd => .phase 0b1100#4
  | .hexEnc => .phase 0b1101#4
  | .phaseReserved14 => .phase 0b1110#4
  | .fault => .phase 0b1111#4
  | .wrCmd addr data => encodeAccess 1#1 0b000#3 addr data
  | .rdCmd addr data => encodeAccess 0#1 0b000#3 addr data
  | .rdStatus addr data => encodeAccess 0#1 0b001#3 addr data
  | .wrStatus addr data => encodeAccess 1#1 0b001#3 addr data
  | .wrMsgLen addr data => encodeAccess 1#1 0b010#3 addr data
  | .rdMsgLen addr data => encodeAccess 0#1 0b010#3 addr data
  | .wrPlen addr data => encodeAccess 1#1 0b011#3 addr data
  | .rdPlen addr data => encodeAccess 0#1 0b011#3 addr data
  | .wrMsg addr data => encodeAccess 1#1 0b100#3 addr data
  | .rdMsg addr data => encodeAccess 0#1 0b100#3 addr data
  | .wrPbuf addr data => encodeAccess 1#1 0b101#3 addr data
  | .rdPbuf addr data => encodeAccess 0#1 0b101#3 addr data
  | .rdH addr data => encodeAccess 0#1 0b110#3 addr data
  | .wrH addr data => encodeAccess 1#1 0b110#3 addr data
  | .rdHex addr data => encodeAccess 0#1 0b111#3 addr data
  | .wrHex addr data => encodeAccess 1#1 0b111#3 addr data

/-- How many bits an encoded instruction has (30_encoding.md rule R90). -/
def Encoded.nbits : Encoded → Nat
  | .cmd _ => 3
  | .phase _ => 4
  | .acc _ => 98

/-- The bits of an encoded instruction as a number, bit 0 the least significant. -/
def Encoded.bits : Encoded → Nat
  | .cmd code => code.toNat
  | .phase code => code.toNat
  | .acc word => word.toNat

/-! ## The opcode table -/

/-- An instruction's row of spec/opcode_table.json (`mask` and `match` as the table prints them). -/
def Instr.tableRow : Instr → TableRow
  | .nop => ⟨3, 0b111, 0b000⟩
  | .hash => ⟨3, 0b111, 0b001⟩
  | .pad => ⟨3, 0b111, 0b010⟩
  | .compress => ⟨3, 0b111, 0b011⟩
  | .encode => ⟨3, 0b111, 0b100⟩
  | .cmdReserved5 => ⟨3, 0b111, 0b101⟩
  | .cmdReserved6 => ⟨3, 0b111, 0b110⟩
  | .rst => ⟨3, 0b111, 0b111⟩
  | .idle => ⟨4, 0b1111, 0b0000⟩
  | .padChk => ⟨4, 0b1111, 0b0001⟩
  | .padCopy => ⟨4, 0b1111, 0b0010⟩
  | .padMark => ⟨4, 0b1111, 0b0011⟩
  | .padZero => ⟨4, 0b1111, 0b0100⟩
  | .padLen => ⟨4, 0b1111, 0b0101⟩
  | .cmpChk => ⟨4, 0b1111, 0b0110⟩
  | .accIv => ⟨4, 0b1111, 0b0111⟩
  | .msxLoad => ⟨4, 0b1111, 0b1000⟩
  | .msxExp => ⟨4, 0b1111, 0b1001⟩
  | .rndInit => ⟨4, 0b1111, 0b1010⟩
  | .rndStep => ⟨4, 0b1111, 0b1011⟩
  | .accAdd => ⟨4, 0b1111, 0b1100⟩
  | .hexEnc => ⟨4, 0b1111, 0b1101⟩
  | .phaseReserved14 => ⟨4, 0b1111, 0b1110⟩
  | .fault => ⟨4, 0b1111, 0b1111⟩
  | .wrCmd _ _ => ⟨98, 0x3c00000000000000000000000, 0x2000000000000000000000000⟩
  | .rdCmd _ _ => ⟨98, 0x3c00000000000000000000000, 0x0⟩
  | .rdStatus _ _ => ⟨98, 0x3c00000000000000000000000, 0x400000000000000000000000⟩
  | .wrStatus _ _ => ⟨98, 0x3c00000000000000000000000, 0x2400000000000000000000000⟩
  | .wrMsgLen _ _ => ⟨98, 0x3c00000000000000000000000, 0x2800000000000000000000000⟩
  | .rdMsgLen _ _ => ⟨98, 0x3c00000000000000000000000, 0x800000000000000000000000⟩
  | .wrPlen _ _ => ⟨98, 0x3c00000000000000000000000, 0x2c00000000000000000000000⟩
  | .rdPlen _ _ => ⟨98, 0x3c00000000000000000000000, 0xc00000000000000000000000⟩
  | .wrMsg _ _ => ⟨98, 0x3c00000000000000000000000, 0x3000000000000000000000000⟩
  | .rdMsg _ _ => ⟨98, 0x3c00000000000000000000000, 0x1000000000000000000000000⟩
  | .wrPbuf _ _ => ⟨98, 0x3c00000000000000000000000, 0x3400000000000000000000000⟩
  | .rdPbuf _ _ => ⟨98, 0x3c00000000000000000000000, 0x1400000000000000000000000⟩
  | .rdH _ _ => ⟨98, 0x3c00000000000000000000000, 0x1800000000000000000000000⟩
  | .wrH _ _ => ⟨98, 0x3c00000000000000000000000, 0x3800000000000000000000000⟩
  | .rdHex _ _ => ⟨98, 0x3c00000000000000000000000, 0x1c00000000000000000000000⟩
  | .wrHex _ _ => ⟨98, 0x3c00000000000000000000000, 0x3c00000000000000000000000⟩

end Sys2Proof
end

