-- ==== Sys2Proof/Machine/State.lean ====
section
/-! DEFINITION. The state of the machine as plain data, the reasons a step can stop, and the state right after power-on reset
(10_state.md rules R20 to R43). -/

namespace Sys2Proof.Machine

/-- A byte space as the bytes written since power-on: (address, byte) pairs, addresses strictly rising. An address that is not
listed holds no written byte; what it reads as is `Config.powerOnByte` (93_implementation_defined.md U1; log entry 5). -/
abbrev Memory := List Host.Cell

/-- The value of MODE: the code of the command in progress, or 0 after reset (10_state.md rule R36; log entry 8). -/
inductive Mode where
  /-- 0: no command since reset. -/
  | none
  /-- 1. -/
  | hash
  /-- 2. -/
  | pad
  /-- 3. -/
  | compress
  /-- 4. -/
  | encode
  deriving DecidableEq, Repr

/-- The value of ERR (10_state.md rule R32; code 3 is never produced; log entry 8). -/
inductive ErrCode where
  /-- 0: no fault. -/
  | none
  /-- 1: PLEN is not a multiple of 64 (60_exceptions.md rule R241). -/
  | invalidInputLength
  /-- 2: MSG_LEN is 2^29 or more (60_exceptions.md rule R242). -/
  | inputTooLarge
  deriving DecidableEq, Repr

/-- One step's worth of what happens outside the sequencer's own control (45_host_commands.md rule R224; log entry 1). -/
inductive Event where
  /-- The sequencer has its turn. -/
  | sequencer
  /-- A host access, packed as 98 bits (30_encoding.md rule R92). -/
  | access (word : BitVec 98)
  /-- A command code at the CMD port, in the CMD format (10_state.md rule R30, 30_encoding.md rule R91; log entry 12). -/
  | command (code : BitVec 3)
  /-- The hardware reset input (70_reset_and_hazards.md rule R270). -/
  | resetInput
  deriving DecidableEq, Repr

/-- The machine's state: all the state of 10_state.md, and the model's own fields `pending`, `replies`, `draws`. -/
structure State where
  /-- PHASE, 4 bits (R35): which micro-operation comes next. -/
  phase : Phase
  /-- MODE, 3 bits (R36): the command in progress. -/
  mode : Mode
  /-- PTR, 30 bits (R37): bytes the padder has written to PBUF. -/
  ptr : BitVec 30
  /-- BLK, 24 bits (R38): the block being compressed. -/
  blk : BitVec 24
  /-- T, 6 bits (R39): schedule index, round number or word index. -/
  t : BitVec 6
  /-- DONE, STATUS bit 1 (R31, R33). -/
  done : Bool
  /-- ERR, STATUS bits 3:2 (R31, R32). -/
  err : ErrCode
  /-- MSG_LEN, 64 bits (R28): the message's length in bytes. -/
  msgLen : BitVec 64
  /-- PLEN, 30 bits (R29): the padded buffer's length in bytes. -/
  plen : BitVec 30
  /-- H[0..7] (R20): the hash state. -/
  h : Vector Word 8
  /-- V[0..7] = a..h (R21): the working variables. -/
  v : Vector Word 8
  /-- W[0..63] (R22): the message schedule. -/
  w : Vector Word 64
  /-- HEX[0..63] (R25): the hex digest, one character code per byte. -/
  hex : Memory
  /-- MSG (R26): the message memory. -/
  msg : Memory
  /-- PBUF (R27): the padded buffer. -/
  pbuf : Memory
  /-- The model's own: the events still to come, oldest first (log entry 1). -/
  pending : List Event
  /-- The model's own: the records the host's reads have returned, oldest first (30_encoding.md rule R92; log entry 2). -/
  replies : List Access
  /-- The model's own: how many unspecified values have been drawn (93_implementation_defined.md U2; log entry 3). -/
  draws : Nat
  deriving DecidableEq, Repr

/-- Why the machine stops for good. The hardware's own two faults are no stops: they are states that reset leaves
(60_exceptions.md rules R243, R246). -/
inductive Fault where
  /-- Raised by the PHASE.RESERVED14 row alone: PHASE holds code 14, which no transition produces and no rule gives a meaning
  (30_encoding.md rule R99; 93_implementation_defined.md U5: stuck). Safe: the model stops. -/
  | stuckReservedPhase
  deriving DecidableEq, Repr

/-- Why a step has no meaning. -/
inductive Refusal where
  /-- Raised by an arm of `exec` whose instruction has no meaning yet. Safe: the model stops. No arm raises it now. -/
  | notModelled (mnemonic : String)
  /-- Raised by a micro-operation in a state outside the invariants of 10_state.md rule R42 and the bounds of 20_memory.md rule
  R71, or by one that PHASE does not name: "no rule gives such a state a meaning" (93_implementation_defined.md U7: refuse).
  Safe: the model stops, and no run from reset gets there. -/
  | outsideInvariants (phase : Phase)
  deriving DecidableEq, Repr

/-- H[0..7] with word `i` at `f i`. -/
def words8 (f : Nat → Word) : Vector Word 8 :=
  ⟨((List.range 8).map f).toArray, by simp⟩

/-- W[0..63] with word `i` at `f i`. -/
def words64 (f : Nat → Word) : Vector Word 64 :=
  ⟨((List.range 64).map f).toArray, by simp⟩

/-- The first state: power-on, with the hardware reset input asserted once (70_reset_and_hazards.md rule R271). The control state
has the values of 10_state.md rule R43; H, V, W, HEX, MSG and PBUF are unspecified, so they hold free values (log entries 4, 5). -/
def State.reset : State where
  phase := .idle
  mode := .none
  ptr := 0
  blk := 0
  t := 0
  done := false
  err := .none
  msgLen := 0
  plen := 0
  h := words8 Config.powerOnH
  v := words8 Config.powerOnV
  w := words64 Config.powerOnW
  hex := []
  msg := []
  pbuf := []
  pending := []
  replies := []
  draws := 0

end Sys2Proof.Machine
end

