-- ==== Sys2Proof/Machine/Ops.lean ====
section
/-! DEFINITION. The named operations over memories and registers that the meanings share: byte and multi-byte accesses of the three
spaces, the host's replies, taking a fault and the reset that is the only way back from one, and the test of the invariants
that a micro-operation needs. -/

namespace Sys2Proof.Machine

/-! ## One memory (20_memory.md rules R60, R61) -/

/-- The byte written at an address, or none if nothing has written it since power-on. -/
def Memory.read : Memory → Nat → Option Byte
  | [], _ => none
  | (a, b) :: m, addr => if addr = a then some b else Memory.read m addr

/-- The memory with one byte written, in the canonical form. -/
def Memory.write : Memory → Nat → Byte → Memory
  | [], addr, v => [(addr, v)]
  | (a, b) :: m, addr, v =>
    if addr < a then (addr, v) :: (a, b) :: m
    else if addr = a then (a, v) :: m
    else (a, b) :: Memory.write m addr v

/-- The addresses rise strictly, from `low` on. -/
def Memory.risingFrom : Nat → Memory → Bool
  | _, [] => true
  | low, (a, _) :: m => decide (low ≤ a) && Memory.risingFrom (a + 1) m

/-- The canonical form: addresses strictly rising, each inside its space. An unlisted address holds no written byte, so no entry
can equal what it reads as. -/
def Memory.wf (sp : Space) (m : Memory) : Bool :=
  Memory.risingFrom 0 m && m.all fun cell => decide (cell.1 < Config.spaceSize sp)

/-! ## The three spaces of the machine -/

/-- The memory of a space. -/
def State.memory (s : State) : Space → Memory
  | .msg => s.msg
  | .pbuf => s.pbuf
  | .hex => s.hex

/-- The state with one byte of a space written (`MemWrite(S:a, 1, b)`, 00_scope.md rule R10). -/
def State.writeByte (s : State) (sp : Space) (a : Nat) (b : Byte) : State :=
  match sp with
  | .msg => { s with msg := Memory.write s.msg a b }
  | .pbuf => { s with pbuf := Memory.write s.pbuf a b }
  | .hex => { s with hex := Memory.write s.hex a b }

/-- One byte of a space (`MemRead(S:a, 1)`, 00_scope.md rule R10); a byte nothing has written reads as its free value
(93_implementation_defined.md U1; log entry 5). -/
def State.readByte (s : State) (sp : Space) (a : Nat) : Byte :=
  (Memory.read (s.memory sp) a).getD (Config.powerOnByte sp a)

/-- The `n` bytes from address `a` on. -/
def State.readBytes (s : State) (sp : Space) (a n : Nat) : List Byte :=
  (List.range n).map fun i => s.readByte sp (a + i)

/-- The state with a byte string written from address `a` on (20_memory.md rules R63, R68: one step). -/
def State.writeBytes (s : State) (sp : Space) (a : Nat) : List Byte → State
  | [] => s
  | b :: bs => (s.writeByte sp a b).writeBytes sp (a + 1) bs

/-- `MemRead(S:a, n)`: the big-endian number of `n` bytes (00_scope.md rule R10, 20_memory.md rule R62). -/
def State.memRead (s : State) (sp : Space) (a n : Nat) : Nat :=
  numberOf (s.readBytes sp a n)

/-- `MemWrite(S:a, n, v)`: the number as `n` bytes, most significant at the lowest address (00_scope.md rule R10,
20_memory.md rule R62). -/
def State.memWrite (s : State) (sp : Space) (a n v : Nat) : State :=
  s.writeBytes sp a (bytesOf n v)

/-- The message: the MSG_LEN bytes from MSG address 0 on (10_state.md rule R26). -/
def State.message (s : State) : List Byte :=
  s.readBytes .msg 0 s.msgLen.toNat

/-- The padded buffer: the PLEN bytes from PBUF address 0 on (10_state.md rule R27). -/
def State.paddedBuffer (s : State) : List Byte :=
  s.readBytes .pbuf 0 s.plen.toNat

/-- Block `b`: the 64 bytes from PBUF address 64b on (20_memory.md rule R66). -/
def State.block (s : State) (b : Nat) : List Byte :=
  s.readBytes .pbuf (64 * b) 64

/-! ## Replies to the host's reads -/

/-- The reply to a read: the request's record with the value in `data` (30_encoding.md rules R92, R94; log entry 2). -/
def State.reply (s : State) (sel : BitVec 3) (addr : BitVec 30) (value : BitVec 64) : State :=
  { s with replies := s.replies ++ [{ wr := 0#1, sel := sel, addr := addr, data := value }] }

/-- The reply to a read that has no defined value: a fresh draw (93_implementation_defined.md U2; log entry 3). -/
def State.replyUnspecified (s : State) (sel : BitVec 3) (addr : BitVec 30) : State :=
  { s.reply sel addr (Config.unspecifiedRead s.draws) with draws := s.draws + 1 }

/-! ## Faults and reset (60_exceptions.md, 70_reset_and_hazards.md) -/

/-- `raise <Fault>`: ERR and PHASE, and nothing else (60_exceptions.md rule R243). -/
def State.raiseFault (s : State) (e : ErrCode) : State :=
  { s with err := e, phase := .fault }

/-- The reset event, the only way out of FAULT: the control state of 10_state.md rule R43, and nothing else written
(70_reset_and_hazards.md rule R270, 60_exceptions.md rule R246). -/
def State.resetEvent (s : State) : State :=
  { s with
    phase := .idle, mode := .none, ptr := 0, blk := 0, t := 0, done := false, err := .none, msgLen := 0, plen := 0 }

/-! ## Registers of the sequencer -/

/-- PTR advanced by `n` bytes (00_scope.md rule R6: ordinary integer arithmetic; 20_memory.md rule R71: within its width). -/
def State.advancePtr (s : State) (n : Nat) : State :=
  { s with ptr := BitVec.ofNat 30 (s.ptr.toNat + n) }

/-! ## The invariants a micro-operation needs (10_state.md rule R42, 20_memory.md rule R71) -/

/-- R42 (a) and (b): PHASE = FAULT exactly when ERR is not 0; DONE = 1 implies PHASE = IDLE and ERR = 0. -/
def State.statusLegal (s : State) : Bool :=
  decide (s.phase = .fault ↔ s.err ≠ .none) && decide (s.done = true → s.phase = .idle ∧ s.err = .none)

/-- R71: the 8 bytes from PTR on end at or below 2^29 + 64. -/
def State.ptrBounded (s : State) : Bool :=
  decide (s.ptr.toNat + 8 ≤ 2 ^ 29 + 64)

/-- R42 (c), with the precondition of PAD.LEN (40_padder.md rule R125) and the bound of 20_memory.md rule R71. -/
def State.padLegal (s : State) : Bool :=
  match s.phase with
  | .padCopy => decide (s.ptr.toNat < s.msgLen.toNat) && decide (s.msgLen.toNat < 2 ^ 29) && s.ptrBounded
  | .padMark => decide (s.ptr.toNat = s.msgLen.toNat) && s.ptrBounded
  | .padZero => decide (s.msgLen.toNat < s.ptr.toNat) && decide (s.ptr.toNat % 64 ≠ 56) && s.ptrBounded
  | .padLen => decide (s.ptr.toNat % 64 = 56) && decide (s.msgLen.toNat < 2 ^ 29) && s.ptrBounded
  | _ => true

/-- R42 (d): the range of T. -/
def State.tLegal (s : State) : Bool :=
  match s.phase with
  | .msxLoad => decide (s.t.toNat ≤ 15)
  | .msxExp => decide (16 ≤ s.t.toNat)
  | .rndStep => true
  | .hexEnc => decide (s.t.toNat ≤ 7)
  | _ => decide (s.t = 0)

/-- R42 (e): while a block is processed PLEN is a multiple of 64 and the block lies inside it. -/
def State.blockLegal (s : State) : Bool :=
  match s.phase with
  | .msxLoad | .msxExp | .rndInit | .rndStep | .accAdd =>
    decide (s.plen.toNat % 64 = 0) && decide (64 * s.blk.toNat + 64 ≤ s.plen.toNat)
  | _ => true

/-- R42 (f): the command in progress is one that has this phase. -/
def State.modeLegal (s : State) : Bool :=
  match s.phase with
  | .padChk | .padCopy | .padMark | .padZero | .padLen => decide (s.mode = .hash ∨ s.mode = .pad)
  | .cmpChk | .accIv | .msxLoad | .msxExp | .rndInit | .rndStep | .accAdd => decide (s.mode = .hash ∨ s.mode = .compress)
  | .hexEnc => decide (s.mode = .hash ∨ s.mode = .encode)
  | _ => true

/-- The state is inside the invariants of 10_state.md rule R42 and the bounds of 20_memory.md rule R71. -/
def State.legal (s : State) : Bool :=
  s.statusLegal && s.padLegal && s.tLegal && s.blockLegal && s.modeLegal

/-- One step of the micro-operation of phase `p`, whose effect leaves `after`. PHASE names it and the state is inside the invariants,
or the step has no meaning: "no rule gives such a state a meaning" (10_state.md rule R42; 93_implementation_defined.md U7;
45_host_commands.md rule R208; log entry 6). -/
def State.microOp (s : State) (p : Phase) (after : State) : Host.Outcome State Fault Refusal :=
  if s.phase = p ∧ s.legal = true then .next after else .refused (.outsideInvariants p)

end Sys2Proof.Machine
end

