-- ==== Sys2Proof/Machine/Flags.lean ====
section
/-! DEFINITION. The flags of the hardware: the fields of STATUS (10_state.md rules R31 to R34), and `finish`. There is no other flag:
arithmetic sets none (00_scope.md rule R6). -/

namespace Sys2Proof.Machine

/-- BUSY: PHASE is neither IDLE nor FAULT (10_state.md rule R34). -/
def Phase.busy (p : Phase) : Bool :=
  match p with
  | .idle | .fault => false
  | .padChk | .padCopy | .padMark | .padZero | .padLen | .cmpChk | .accIv | .msxLoad | .msxExp | .rndInit | .rndStep
  | .accAdd | .hexEnc | .reserved14 => true

/-- BUSY in a state (10_state.md rule R34). -/
def State.busy (s : State) : Bool :=
  Phase.busy s.phase

/-- The code of ERR (10_state.md rule R32). -/
def ErrCode.code : ErrCode → BitVec 2
  | .none => 0b00#2
  | .invalidInputLength => 0b01#2
  | .inputTooLarge => 0b10#2

/-- The code of MODE (10_state.md rule R36). -/
def Mode.code : Mode → BitVec 3
  | .none => 0b000#3
  | .hash => 0b001#3
  | .pad => 0b010#3
  | .compress => 0b011#3
  | .encode => 0b100#3

/-- STATUS: bit 0 BUSY, bit 1 DONE, bits 3:2 ERR, bits 7:4 read as 0 (10_state.md rule R31, 45_host_commands.md rule R214). -/
def State.status (s : State) : BitVec 8 :=
  0b0000#4 ++ ErrCode.code s.err ++ BitVec.ofBool s.done ++ BitVec.ofBool s.busy

/-- `finish`: PHASE <- IDLE, DONE <- 1 (45_host_commands.md rule R207). -/
def State.finish (s : State) : State :=
  { s with phase := .idle, done := true }

end Sys2Proof.Machine
end

