-- ==== Sys2Proof/Machine/Operands.lean ====
section
/-! DEFINITION. The operand forms: what a host access takes from its `data` and `addr` (30_encoding.md rule R94), and what a
micro-operation takes from the sequencer's registers, since all its operands are implicit (30_encoding.md rule R90). -/

namespace Sys2Proof.Machine

/-! ## Host data (30_encoding.md rule R94) -/

/-- The command of a WR.CMD access: the code is data[2:0], the rest of `data` is dropped. -/
def commandOf (data : BitVec 64) : Command :=
  Command.ofCode (data.extractLsb' 0 3)

/-- The value a PLEN write takes: data[29:0]. -/
def plenOf (data : BitVec 64) : BitVec 30 :=
  data.extractLsb' 0 30

/-- The byte a memory write takes: data[7:0]. -/
def byteOf (data : BitVec 64) : Byte :=
  data.extractLsb' 0 8

/-- A value in the low bits of `data`, zeros above it (`zext_64`). -/
def zext64 {n : Nat} (v : BitVec n) : BitVec 64 :=
  v.setWidth 64

/-! ## Operands of the micro-operations -/

/-- The PBUF address MSX.LOAD reads: `64*BLK + 4*T` (41_schedule.md rule R142). -/
def State.loadAddress (s : State) : Nat :=
  64 * s.blk.toNat + 4 * s.t.toNat

/-- The word MSX.LOAD reads, big-endian (41_schedule.md rule R142, 20_memory.md rule R62). -/
def State.loadedWord (s : State) : Word :=
  BitVec.ofNat 32 (s.memRead .pbuf s.loadAddress 4)

/-- W[i]; an index outside 0 to 63 is asked for by no operation inside the invariants. -/
def State.wAt (s : State) (i : Nat) : Word :=
  s.w.toArray.getD i 0

/-- The word MSX.EXP derives from W[T-16], W[T-15], W[T-7] and W[T-2] (41_schedule.md rule R143). -/
def State.expandedWord (s : State) : Word :=
  expandWord (s.wAt (s.t.toNat - 16)) (s.wAt (s.t.toNat - 15)) (s.wAt (s.t.toNat - 7)) (s.wAt (s.t.toNat - 2))

/-- The state with W[T] written. -/
def State.setW (s : State) (x : Word) : State :=
  { s with w := s.w.set s.t.toNat x s.t.isLt }

/-- K[T] (42_round_engine.md rule R160). -/
def State.roundConstant (s : State) : Word :=
  kTable[s.t.toNat]'s.t.isLt

/-- W[T] (42_round_engine.md rule R160). -/
def State.scheduleWord (s : State) : Word :=
  s.w[s.t.toNat]'s.t.isLt

/-- H[i]; an index outside 0 to 7 is asked for by no operation inside the invariants. -/
def State.hAt (s : State) (i : Nat) : Word :=
  s.h.toArray.getD i 0

/-- A block with index BLK + 1 exists: `64*(BLK+1) < PLEN` (43_accumulator.md rule R177). -/
def State.anotherBlock (s : State) : Bool :=
  decide (64 * (s.blk.toNat + 1) < s.plen.toNat)

/-! ## Conditions of the host accesses -/

/-- The access takes effect: in IDLE, the address inside the window (45_host_commands.md rules R212, R217, R219, R220). -/
def State.window (s : State) (addr : BitVec 30) (size : Nat) : Bool :=
  decide (s.phase = .idle) && decide (addr.toNat < size)

end Sys2Proof.Machine
end

