-- ==== Sys2Proof/Machine/Accumulator.lean ====
section
/-! DEFINITION. The hash accumulator's three micro-operations: the precondition check, the initial constants, and the update after a
block with the block loop (43_accumulator.md rules R175 to R177). -/

namespace Sys2Proof.Machine

/-- The compressor hands over: to the hex encoder under HASH, else `finish` (43_accumulator.md rules R176, R177). -/
def State.endCompression (s : State) : State :=
  if s.mode = .hash then { s with phase := .hexEnc } else s.finish

/-- `CMP.CHK` (43_accumulator.md rule R175). -/
def execCmpChk (s : State) : Host.Outcome State Fault Refusal :=
  s.microOp .cmpChk
    (if s.plen.toNat % 64 ≠ 0 then s.raiseFault .invalidInputLength else { s with phase := .accIv })

/-- `ACC.IV` (43_accumulator.md rule R176; the zero-block run, rule R181). -/
def execAccIv (s : State) : Host.Outcome State Fault Refusal :=
  s.microOp .accIv
    (if 0 < s.plen.toNat then { s with h := ivTable, blk := 0, t := 0, phase := .msxLoad }
     else State.endCompression { s with h := ivTable, blk := 0, t := 0 })

/-- H with the working variables added, BLK on the next block (43_accumulator.md rule R177). -/
def State.blockAdded (s : State) : State :=
  { s with h := addWords s.h s.v, blk := s.blk + 1, t := 0 }

/-- `ACC.ADD` (43_accumulator.md rule R177). -/
def execAccAdd (s : State) : Host.Outcome State Fault Refusal :=
  s.microOp .accAdd
    (if s.anotherBlock then { s.blockAdded with phase := .msxLoad } else s.blockAdded.endCompression)

end Sys2Proof.Machine
end

