-- ==== Sys2Proof/Machine/HexEncoder.lean ====
section
/-! DEFINITION. The hex digest encoder's micro-operation (44_hex_encoder.md rule R191). -/

namespace Sys2Proof.Machine

/-- The eight characters of H[T] at HEX[8*T .. 8*T+7] (44_hex_encoder.md rule R191). -/
def State.wordEncoded (s : State) : State :=
  s.writeBytes .hex (8 * s.t.toNat) (hex8 (s.hAt s.t.toNat))

/-- `HEX.ENC` (44_hex_encoder.md rule R191). -/
def execHexEnc (s : State) : Host.Outcome State Fault Refusal :=
  s.microOp .hexEnc
    (if s.t.toNat < 7 then { s.wordEncoded with t := s.t + 1 }
     else State.finish { s.wordEncoded with t := 0 })

end Sys2Proof.Machine
end

