-- ==== Sys2Proof/Machine/Commands.lean ====
section
/-! DEFINITION. The eight codes of the CMD port: four working commands, NOP, two reserved codes and RST
(45_host_commands.md rules R200 to R206). -/

namespace Sys2Proof.Machine

/-- A working command accepted: MODE, DONE, PTR, BLK, T and the first phase (45_host_commands.md rule R200). -/
def State.accept (s : State) (m : Mode) (p : Phase) : State :=
  { s with mode := m, done := false, ptr := 0, blk := 0, t := 0, phase := p }

/-- A working command: accepted in IDLE, ignored in every other PHASE (45_host_commands.md rule R200). -/
def startCommand (m : Mode) (p : Phase) (s : State) : Host.Outcome State Fault Refusal :=
  if s.phase = .idle then .next (s.accept m p) else .next s

/-- `NOP` (45_host_commands.md rule R201). -/
def execNop (s : State) : Host.Outcome State Fault Refusal :=
  .next s

/-- `HASH` (45_host_commands.md rules R200, R202). -/
def execHash (s : State) : Host.Outcome State Fault Refusal :=
  startCommand .hash .padChk s

/-- `PAD` (45_host_commands.md rules R200, R203). -/
def execPad (s : State) : Host.Outcome State Fault Refusal :=
  startCommand .pad .padChk s

/-- `COMPRESS` (45_host_commands.md rules R200, R204). -/
def execCompress (s : State) : Host.Outcome State Fault Refusal :=
  startCommand .compress .cmpChk s

/-- `ENCODE` (45_host_commands.md rules R200, R205). -/
def execEncode (s : State) : Host.Outcome State Fault Refusal :=
  startCommand .encode .hexEnc s

/-- Code 5, reserved: ignored in every state, like NOP (30_encoding.md rule R99). -/
def execCmdReserved5 (s : State) : Host.Outcome State Fault Refusal :=
  .next s

/-- Code 6, reserved: ignored in every state, like NOP (30_encoding.md rule R99). -/
def execCmdReserved6 (s : State) : Host.Outcome State Fault Refusal :=
  .next s

/-- `RST`: the reset event, in every PHASE (45_host_commands.md rule R206). -/
def execRst (s : State) : Host.Outcome State Fault Refusal :=
  .next s.resetEvent

/-- The meaning of a command (45_host_commands.md rule R200). -/
def runCommand (c : Command) (s : State) : Host.Outcome State Fault Refusal :=
  match c with
  | .nop => execNop s
  | .hash => execHash s
  | .pad => execPad s
  | .compress => execCompress s
  | .encode => execEncode s
  | .reserved5 => execCmdReserved5 s
  | .reserved6 => execCmdReserved6 s
  | .rst => execRst s

end Sys2Proof.Machine
end

