-- ==== Sys2Proof/Machine/HostAccess.lean ====
section
/-! DEFINITION. The sixteen host accesses (45_host_commands.md rules R200, R210 to R221). A read returns its value in a reply record; a
read with no defined value returns a fresh unspecified one (93_implementation_defined.md U2). -/

namespace Sys2Proof.Machine

/-- A write of a byte space: in IDLE with the address in range, ignored otherwise (45_host_commands.md rules R212, R213). -/
def writeWindow (sp : Space) (addr : BitVec 30) (data : BitVec 64) (s : State) : Host.Outcome State Fault Refusal :=
  if s.window addr (Config.spaceSize sp) then .next (s.writeByte sp addr.toNat (byteOf data)) else .next s

/-- A read of a window with `size` elements: in IDLE with the address in range it returns `value`, otherwise an unspecified one
(45_host_commands.md rules R217 to R220). -/
def readWindow (sel : BitVec 3) (addr : BitVec 30) (size : Nat) (value : BitVec 64) (s : State) :
    Host.Outcome State Fault Refusal :=
  if s.window addr size then .next (s.reply sel addr value) else .next (s.replyUnspecified sel addr)

/-- `WR.CMD`: the command of data[2:0] (45_host_commands.md rule R200). -/
def execWrCmd (_addr : BitVec 30) (data : BitVec 64) (s : State) : Host.Outcome State Fault Refusal :=
  runCommand (commandOf data) s

/-- `RD.CMD`: returns 0 in every PHASE (45_host_commands.md rule R221). -/
def execRdCmd (addr : BitVec 30) (_data : BitVec 64) (s : State) : Host.Outcome State Fault Refusal :=
  .next (s.reply 0b000#3 addr 0)

/-- `RD.STATUS`, in every PHASE (45_host_commands.md rule R214). -/
def execRdStatus (addr : BitVec 30) (_data : BitVec 64) (s : State) : Host.Outcome State Fault Refusal :=
  .next (s.reply 0b001#3 addr (zext64 s.status))

/-- `WR.STATUS`: read-only, ignored (45_host_commands.md rule R221). -/
def execWrStatus (_addr : BitVec 30) (_data : BitVec 64) (s : State) : Host.Outcome State Fault Refusal :=
  .next s

/-- `WR.MSG_LEN`: in IDLE, ignored otherwise (45_host_commands.md rule R210). -/
def execWrMsgLen (_addr : BitVec 30) (data : BitVec 64) (s : State) : Host.Outcome State Fault Refusal :=
  if s.phase = .idle then .next { s with msgLen := data } else .next s

/-- `RD.MSG_LEN`, in every PHASE (45_host_commands.md rule R215). -/
def execRdMsgLen (addr : BitVec 30) (_data : BitVec 64) (s : State) : Host.Outcome State Fault Refusal :=
  .next (s.reply 0b010#3 addr s.msgLen)

/-- `WR.PLEN`: data[29:0] in IDLE, ignored otherwise (45_host_commands.md rule R211). -/
def execWrPlen (_addr : BitVec 30) (data : BitVec 64) (s : State) : Host.Outcome State Fault Refusal :=
  if s.phase = .idle then .next { s with plen := plenOf data } else .next s

/-- `RD.PLEN`, in every PHASE (45_host_commands.md rule R216). -/
def execRdPlen (addr : BitVec 30) (_data : BitVec 64) (s : State) : Host.Outcome State Fault Refusal :=
  .next (s.reply 0b011#3 addr (zext64 s.plen))

/-- `WR.MSG` (45_host_commands.md rule R212). -/
def execWrMsg (addr : BitVec 30) (data : BitVec 64) (s : State) : Host.Outcome State Fault Refusal :=
  writeWindow .msg addr data s

/-- `RD.MSG` (45_host_commands.md rule R217). -/
def execRdMsg (addr : BitVec 30) (_data : BitVec 64) (s : State) : Host.Outcome State Fault Refusal :=
  readWindow 0b100#3 addr (Config.spaceSize .msg) (zext64 (s.readByte .msg addr.toNat)) s

/-- `WR.PBUF` (45_host_commands.md rule R213). -/
def execWrPbuf (addr : BitVec 30) (data : BitVec 64) (s : State) : Host.Outcome State Fault Refusal :=
  writeWindow .pbuf addr data s

/-- `RD.PBUF` (45_host_commands.md rule R218). -/
def execRdPbuf (addr : BitVec 30) (_data : BitVec 64) (s : State) : Host.Outcome State Fault Refusal :=
  readWindow 0b101#3 addr (Config.spaceSize .pbuf) (zext64 (s.readByte .pbuf addr.toNat)) s

/-- `RD.H` (45_host_commands.md rule R219). -/
def execRdH (addr : BitVec 30) (_data : BitVec 64) (s : State) : Host.Outcome State Fault Refusal :=
  readWindow 0b110#3 addr Config.stateWords (zext64 (s.hAt addr.toNat)) s

/-- `WR.H`: read-only, ignored (45_host_commands.md rule R221). -/
def execWrH (_addr : BitVec 30) (_data : BitVec 64) (s : State) : Host.Outcome State Fault Refusal :=
  .next s

/-- `RD.HEX` (45_host_commands.md rule R220). -/
def execRdHex (addr : BitVec 30) (_data : BitVec 64) (s : State) : Host.Outcome State Fault Refusal :=
  readWindow 0b111#3 addr (Config.spaceSize .hex) (zext64 (s.readByte .hex addr.toNat)) s

/-- `WR.HEX`: read-only, ignored (45_host_commands.md rule R221). -/
def execWrHex (_addr : BitVec 30) (_data : BitVec 64) (s : State) : Host.Outcome State Fault Refusal :=
  .next s

end Sys2Proof.Machine
end

