-- ==== Sys2Proof/Machine/Padder.lean ====
section
/-! DEFINITION. The padder's five micro-operations (40_padder.md rules R121 to R125). -/

namespace Sys2Proof.Machine

/-- Where the padder goes after the marker or a zero byte at PTR (40_padder.md rules R123, R124). -/
def State.afterPadByte (s : State) : Phase :=
  if (s.ptr.toNat + 1) % 64 = 56 then .padLen else .padZero

/-- One padding byte at PTR: the step the marker and the zeros share (40_padder.md rules R123, R124). -/
def State.appendPadByte (s : State) (b : Byte) : State :=
  { (s.writeByte .pbuf s.ptr.toNat b).advancePtr 1 with phase := s.afterPadByte }

/-- `PAD.CHK` (40_padder.md rule R121). -/
def execPadChk (s : State) : Host.Outcome State Fault Refusal :=
  s.microOp .padChk
    (if 2 ^ 29 ≤ s.msgLen.toNat then s.raiseFault .inputTooLarge
     else if s.msgLen = 0 then { s with phase := .padMark }
     else { s with phase := .padCopy })

/-- `PAD.COPY` (40_padder.md rule R122). -/
def execPadCopy (s : State) : Host.Outcome State Fault Refusal :=
  s.microOp .padCopy
    { (s.writeByte .pbuf s.ptr.toNat (s.readByte .msg s.ptr.toNat)).advancePtr 1 with
      phase := if s.ptr.toNat + 1 < s.msgLen.toNat then .padCopy else .padMark }

/-- `PAD.MARK` (40_padder.md rule R123). -/
def execPadMark (s : State) : Host.Outcome State Fault Refusal :=
  s.microOp .padMark (s.appendPadByte 0x80#8)

/-- `PAD.ZERO` (40_padder.md rule R124). -/
def execPadZero (s : State) : Host.Outcome State Fault Refusal :=
  s.microOp .padZero (s.appendPadByte 0x00#8)

/-- The padded buffer closed: the 8-byte length field at PTR, PTR and PLEN past it (40_padder.md rule R125, 30_encoding.md rule R96). -/
def State.appendLength (s : State) : State :=
  { (s.memWrite .pbuf s.ptr.toNat 8 (bitLength s.msgLen.toNat).toNat).advancePtr 8 with
    plen := BitVec.ofNat 30 (s.ptr.toNat + 8) }

/-- `PAD.LEN` (40_padder.md rule R125). -/
def execPadLen (s : State) : Host.Outcome State Fault Refusal :=
  s.microOp .padLen
    (if s.mode = .hash then { s.appendLength with phase := .cmpChk } else s.appendLength.finish)

end Sys2Proof.Machine
end

