-- ==== Sys2Proof/Machine/RoundEngine.lean ====
section
/-! DEFINITION. The compression round engine's two micro-operations (42_round_engine.md rules R159, R160). -/

namespace Sys2Proof.Machine

/-- `RND.INIT` (42_round_engine.md rule R159). -/
def execRndInit (s : State) : Host.Outcome State Fault Refusal :=
  s.microOp .rndInit { s with v := s.h, t := 0, phase := .rndStep }

/-- The state with one round applied to V (42_round_engine.md rules R160, R161). -/
def State.roundApplied (s : State) : State :=
  { s with v := oneRound s.v s.roundConstant s.scheduleWord }

/-- `RND.STEP` (42_round_engine.md rule R160; the half "W = schedule" of its precondition is not tested, log entry 9). -/
def execRndStep (s : State) : Host.Outcome State Fault Refusal :=
  s.microOp .rndStep
    (if s.t.toNat < 63 then { s.roundApplied with t := s.t + 1 }
     else { s.roundApplied with t := 0, phase := .accAdd })

end Sys2Proof.Machine
end

