-- ==== Sys2Proof/Machine/Schedule.lean ====
section
/-! DEFINITION. The message-schedule expander's two micro-operations (41_schedule.md rules R142, R143). -/

namespace Sys2Proof.Machine

/-- `MSX.LOAD` (41_schedule.md rule R142). -/
def execMsxLoad (s : State) : Host.Outcome State Fault Refusal :=
  s.microOp .msxLoad
    (if s.t.toNat < 15 then { s.setW s.loadedWord with t := s.t + 1 }
     else { s.setW s.loadedWord with t := 16, phase := .msxExp })

/-- `MSX.EXP` (41_schedule.md rule R143). -/
def execMsxExp (s : State) : Host.Outcome State Fault Refusal :=
  s.microOp .msxExp
    (if s.t.toNat < 63 then { s.setW s.expandedWord with t := s.t + 1 }
     else { s.setW s.expandedWord with t := 0, phase := .rndInit })

end Sys2Proof.Machine
end

