-- ==== Sys2Proof/Machine/Sequencer.lean ====
section
/-! DEFINITION. The three PHASE codes that name no micro-operation: IDLE, FAULT and the reserved code 14 (30_encoding.md rules R93, R99). -/

namespace Sys2Proof.Machine

/-- `IDLE`: "the sequencer does nothing until a command is accepted" (45_host_commands.md rule R208; log entry 11). -/
def execIdle (s : State) : Host.Outcome State Fault Refusal :=
  .next s

/-- `FAULT`: the sequencer "does nothing until reset" (45_host_commands.md rule R208, 60_exceptions.md rule R243; log entry 11). -/
def execFault (s : State) : Host.Outcome State Fault Refusal :=
  .next s

/-- `PHASE.RESERVED14`: no transition produces it and no rule gives it a meaning (30_encoding.md rule R99;
93_implementation_defined.md U5: stuck; log entry 7). -/
def execPhaseReserved14 (_s : State) : Host.Outcome State Fault Refusal :=
  .fault .stuckReservedPhase

end Sys2Proof.Machine
end

