-- ==== Sys2Proof/Machine/Dispatch.lean ====
section
/-! DEFINITION. `exec`: one arm per constructor of `Instr`, each one direct call of its meaning. -/

namespace Sys2Proof.Machine

def exec (i : Instr) (s : State) : Host.Outcome State Fault Refusal :=
  match i with
  -- CMD (45_host_commands.md rules R200 to R206)
  | .nop => Sys2Proof.Machine.execNop s
  | .hash => Sys2Proof.Machine.execHash s
  | .pad => Sys2Proof.Machine.execPad s
  | .compress => Sys2Proof.Machine.execCompress s
  | .encode => Sys2Proof.Machine.execEncode s
  | .cmdReserved5 => Sys2Proof.Machine.execCmdReserved5 s
  | .cmdReserved6 => Sys2Proof.Machine.execCmdReserved6 s
  | .rst => Sys2Proof.Machine.execRst s
  -- PHASE (30_encoding.md rule R93)
  | .idle => Sys2Proof.Machine.execIdle s
  | .padChk => Sys2Proof.Machine.execPadChk s
  | .padCopy => Sys2Proof.Machine.execPadCopy s
  | .padMark => Sys2Proof.Machine.execPadMark s
  | .padZero => Sys2Proof.Machine.execPadZero s
  | .padLen => Sys2Proof.Machine.execPadLen s
  | .cmpChk => Sys2Proof.Machine.execCmpChk s
  | .accIv => Sys2Proof.Machine.execAccIv s
  | .msxLoad => Sys2Proof.Machine.execMsxLoad s
  | .msxExp => Sys2Proof.Machine.execMsxExp s
  | .rndInit => Sys2Proof.Machine.execRndInit s
  | .rndStep => Sys2Proof.Machine.execRndStep s
  | .accAdd => Sys2Proof.Machine.execAccAdd s
  | .hexEnc => Sys2Proof.Machine.execHexEnc s
  | .phaseReserved14 => Sys2Proof.Machine.execPhaseReserved14 s
  | .fault => Sys2Proof.Machine.execFault s
  -- ACC (45_host_commands.md rules R200, R210 to R221)
  | .wrCmd addr data => Sys2Proof.Machine.execWrCmd addr data s
  | .rdCmd addr data => Sys2Proof.Machine.execRdCmd addr data s
  | .rdStatus addr data => Sys2Proof.Machine.execRdStatus addr data s
  | .wrStatus addr data => Sys2Proof.Machine.execWrStatus addr data s
  | .wrMsgLen addr data => Sys2Proof.Machine.execWrMsgLen addr data s
  | .rdMsgLen addr data => Sys2Proof.Machine.execRdMsgLen addr data s
  | .wrPlen addr data => Sys2Proof.Machine.execWrPlen addr data s
  | .rdPlen addr data => Sys2Proof.Machine.execRdPlen addr data s
  | .wrMsg addr data => Sys2Proof.Machine.execWrMsg addr data s
  | .rdMsg addr data => Sys2Proof.Machine.execRdMsg addr data s
  | .wrPbuf addr data => Sys2Proof.Machine.execWrPbuf addr data s
  | .rdPbuf addr data => Sys2Proof.Machine.execRdPbuf addr data s
  | .rdH addr data => Sys2Proof.Machine.execRdH addr data s
  | .wrH addr data => Sys2Proof.Machine.execWrH addr data s
  | .rdHex addr data => Sys2Proof.Machine.execRdHex addr data s
  | .wrHex addr data => Sys2Proof.Machine.execWrHex addr data s

end Sys2Proof.Machine
end

