-- ==== Sys2Proof/Machine/Fetch.lean ====
section
/-! DEFINITION. Whose turn the next step is and what it executes, and how an instruction is placed there.

An execution is a sequence of steps, each a host access or a sequencer step (45_host_commands.md rule R224). The order stands in
`State.pending`: its oldest event goes first, and with nothing pending the turn is the sequencer's (log entry 1). -/

namespace Sys2Proof.Machine

/-- The next step: the encoded instruction it executes, or none for the hardware reset input, and the state with the event taken. -/
def State.nextTurn (s : State) : Option Encoded × State :=
  match s.pending with
  | [] => (some (.phase (Phase.code s.phase)), s)
  | .sequencer :: rest => (some (.phase (Phase.code s.phase)), { s with pending := rest })
  | .access word :: rest => (some (.acc word), { s with pending := rest })
  | .command code :: rest => (some (.cmd code), { s with pending := rest })
  | .resetInput :: rest => (none, { s with pending := rest })

/-- PTR as phase `p` can hold it for a short message (40_padder.md rules R121 to R125). -/
def entryPtr (p : Phase) : BitVec 30 :=
  match p with
  | .padZero => 1
  | .padLen => 56
  | _ => 0

/-- MSG_LEN as phase `p` needs it: one byte still to copy in PAD_COPY, none before the marker (40_padder.md rules R122 to R125). -/
def entryMsgLen (p : Phase) (len : BitVec 64) : BitVec 64 :=
  match p with
  | .padCopy => 1
  | .padMark | .padZero | .padLen => 0
  | _ => len

/-- PLEN as phase `p` needs it: one block in the phases that process a block (10_state.md rule R42 (e)). -/
def entryPlen (p : Phase) (len : BitVec 30) : BitVec 30 :=
  match p with
  | .msxLoad | .msxExp | .rndInit | .rndStep | .accAdd => 64
  | _ => len

/-- The state with the sequencer in phase `p`. PHASE alone is written where that keeps the invariants; where it does not, the
registers that say where the sequencer stands take values that phase `p` can hold (10_state.md rules R35, R42; log entry 11). -/
def State.enterPhase (s : State) (p : Phase) : State :=
  if State.legal { s with phase := p } then { s with phase := p }
  else
    { s with
      phase := p
      mode := .hash
      ptr := entryPtr p
      blk := 0
      t := if p = .msxExp then 16 else 0
      done := false
      err := if p = .fault then .invalidInputLength else .none
      msgLen := entryMsgLen p s.msgLen
      plen := entryPlen p s.plen }

/-- The state whose very next step executes the given encoded instruction: a command or an access first among the pending events,
a phase code in PHASE with the turn given to the sequencer (log entry 11). -/
def State.place (s : State) (e : Encoded) : State :=
  match e with
  | .cmd code => { s with pending := .command code :: s.pending }
  | .acc word => { s with pending := .access word :: s.pending }
  | .phase code => { s.enterPhase (Phase.ofCode code) with pending := .sequencer :: s.pending }

/-- The state whose very next step executes the instruction that `nbits` bits `w` encode; unchanged where they encode none. -/
def State.placeWord (s : State) (nbits w : Nat) : State :=
  match Encoded.ofBits nbits w with
  | .ok e => s.place e
  | .error _ => s

end Sys2Proof.Machine
end

