-- ==== Sys2Proof/Machine/Step.lean ====
section
/-! DEFINITION. One step of the machine: the agent whose turn it is acts once (45_host_commands.md rules R208, R224). -/

namespace Sys2Proof.Machine

/-- One step: the event whose turn it is is taken, and its instruction is decoded and executed; the hardware reset input is the reset
event (70_reset_and_hazards.md rule R270). -/
def step (s : State) : Host.Outcome State Fault Refusal :=
  match s.nextTurn with
  | (some e, taken) => exec (decode e) taken
  | (none, taken) => .next taken.resetEvent

/-- `s` with the instruction that `nbits` bits `w` encode placed where `step` takes its next one (log entry 11). -/
def State.withFetchWord (s : State) (nbits w : Nat) : State :=
  s.placeWord nbits w

end Sys2Proof.Machine
end

