-- ==== Sys2Proof/Safety.lean ====
section
/-! DEFINITION. What a statement about the machine is made of: what a step leaves unchanged (frames), the invariant of every run, runs
of several steps, and how a command's run ends. -/

namespace Sys2Proof.Machine

/-! ## Frames -/

/-- The fields of `State`, by name. -/
inductive Field where
  | phase
  | mode
  | ptr
  | blk
  | t
  | done
  | err
  | msgLen
  | plen
  | h
  | v
  | w
  | hex
  | msg
  | pbuf
  | pending
  | replies
  | draws
  deriving DecidableEq, Repr

/-- Two states hold the same in one field. -/
def Field.same : Field → State → State → Prop
  | .phase, x, y => x.phase = y.phase
  | .mode, x, y => x.mode = y.mode
  | .ptr, x, y => x.ptr = y.ptr
  | .blk, x, y => x.blk = y.blk
  | .t, x, y => x.t = y.t
  | .done, x, y => x.done = y.done
  | .err, x, y => x.err = y.err
  | .msgLen, x, y => x.msgLen = y.msgLen
  | .plen, x, y => x.plen = y.plen
  | .h, x, y => x.h = y.h
  | .v, x, y => x.v = y.v
  | .w, x, y => x.w = y.w
  | .hex, x, y => x.hex = y.hex
  | .msg, x, y => x.msg = y.msg
  | .pbuf, x, y => x.pbuf = y.pbuf
  | .pending, x, y => x.pending = y.pending
  | .replies, x, y => x.replies = y.replies
  | .draws, x, y => x.draws = y.draws

/-- Two states hold the same in every field that is not named. -/
def SameBut (changed : List Field) (s t : State) : Prop :=
  ∀ f : Field, f ∉ changed → Field.same f s t

/-- Every byte of a space outside the `n` bytes from address `a` on reads the same in both states. -/
def SameOutside (sp : Space) (a n : Nat) (s t : State) : Prop :=
  ∀ x : Nat, x < a ∨ a + n ≤ x → t.readByte sp x = s.readByte sp x

/-! ## The invariant of every run -/

/-- The character codes HEX.ENC writes (30_encoding.md rule R97, 10_state.md rule R25). -/
def isHexCode (b : Byte) : Bool :=
  decide (0x30 ≤ b.toNat ∧ b.toNat ≤ 0x39) || decide (0x61 ≤ b.toNat ∧ b.toNat ≤ 0x66)

/-- Every byte written to a memory is a hex character code (44_hex_encoder.md rule R193). -/
def Memory.onlyHexCodes (m : Memory) : Bool :=
  m.all fun cell => isHexCode cell.2

/-- The number of zero bytes of the padding of a message of `len` bytes, `k = (55 - len) mod 64` (40_padder.md rule R120). -/
def zeroBytes (len : Nat) : Nat :=
  (119 - len % 64) % 64

/-- The length of the padded buffer of a message of `len` bytes (40_padder.md rule R127 (a)). -/
def paddedLength (len : Nat) : Nat :=
  len + 1 + zeroBytes len + 8

/-- What holds in every state a run from reset reaches: 10_state.md rule R42 and 20_memory.md rule R71 (`legal`), and what the rules
of the padder and of the compressor add to make it inductive. -/
structure State.Inv (s : State) : Prop where
  /-- R42 and R71. -/
  legal : s.legal = true
  /-- PHASE code 14 is never produced (30_encoding.md rule R99). -/
  notReserved : s.phase ≠ .reserved14
  /-- The padder starts with PTR = 0 (40_padder.md rule R121). -/
  padStart : s.phase = .padChk → s.ptr = 0
  /-- A message the padder goes on with is shorter than 2^29 bytes (40_padder.md rule R121). -/
  padSize : s.phase = .padMark ∨ s.phase = .padZero → s.msgLen.toNat < 2 ^ 29
  /-- At most k zero bytes (40_padder.md rule R124). -/
  padZeros : s.phase = .padZero → s.ptr.toNat ≤ s.msgLen.toNat + zeroBytes s.msgLen.toNat
  /-- The length field stands after the message, the marker and k zero bytes (30_encoding.md rule R103). -/
  padEnd : s.phase = .padLen → s.ptr.toNat = s.msgLen.toNat + 1 + zeroBytes s.msgLen.toNat
  /-- CMP.CHK has passed (43_accumulator.md rule R175). -/
  checked : s.phase = .accIv → s.plen.toNat % 64 = 0
  /-- Under HASH the compressor gets the padder's buffer (40_padder.md rule R127 (b), (e)). -/
  hashLength : s.phase = .cmpChk ∨ s.phase = .accIv → s.mode = .hash → s.plen.toNat % 64 = 0 ∧ 64 ≤ s.plen.toNat
  /-- Only hex characters are ever written to HEX (44_hex_encoder.md rule R193). -/
  hexCodes : Memory.onlyHexCodes s.hex = true
  /-- MSG is in canonical form. -/
  msgForm : Memory.wf .msg s.msg = true
  /-- PBUF is in canonical form. -/
  pbufForm : Memory.wf .pbuf s.pbuf = true
  /-- HEX is in canonical form. -/
  hexForm : Memory.wf .hex s.hex = true

/-! ## Runs -/

/-- `k` steps in a row, stopping at the first fault or refusal. -/
def runSteps : Nat → State → Host.Outcome State Fault Refusal
  | 0, s => .next s
  | k + 1, s =>
    match step s with
    | .next u => runSteps k u
    | .fault r => .fault r
    | .refused r => .refused r

/-! ## The end of a run (92_eei_decisions.md, "What the end of a run is") -/

/-- The command's run has ended well: BUSY = 0 and DONE = 1. -/
def State.endedWell (s : State) : Bool :=
  !s.busy && s.done

/-- The command's run has ended in a fault: BUSY = 0 and ERR is not 0. -/
def State.endedInFault (s : State) : Bool :=
  !s.busy && decide (s.err ≠ .none)

end Sys2Proof.Machine
end

