-- ==== Sys2Proof/Certificates/Slice0/Obligations.lean ====
section
/-! DEFINITION. The statements for the provers, each a proposition about the model named for what it says. Each docstring names the rules of
spec/ it comes from. -/

open Sys2Proof Sys2Proof.Machine

/-- O1. Decoding an encoded instruction gives it back, for every instruction. Basis derived: R91, R92, R93, 30_encoding.md section 2. -/
def Obligations.DecodeEncodeAgree : Prop :=
  ∀ i : Instr, decode (encode i) = i

/-- O2. Encoding a decoded instruction gives its bits back: every code has one meaning. Basis derived: R91, R92, R93, R100. -/
def Obligations.EncodeDecodeAgree : Prop :=
  ∀ e : Encoded, encode (decode e) = e

/-- O3. The decoder on numbers reads every encoded instruction, in its format's bits and an access in whole bytes. Basis derived: R90, R91, R92, R93, spec/opcode_table.json.
The widths in whole bytes are the model's choice (log entry 10). -/
def Obligations.TableWordRoundTrip : Prop :=
  ∀ i : Instr,
    decodeTableWord (encode i).nbits (encode i).bits = some i ∧
      ((encode i).nbits = 98 → decodeTableWord 104 (encode i).bits = some i)

/-- O4. Bits that match a row of the opcode table decode to an instruction of that row: no two rows overlap. Basis derived: R92, R99, spec/opcode_table.json. -/
def Obligations.MatchingBitsDecodeToTheRow : Prop :=
  ∀ (e : Encoded) (i : Instr),
    e.nbits = i.tableRow.nbits → e.bits &&& i.tableRow.mask = i.tableRow.pattern → (decode e).tableRow = i.tableRow

/-- O5. Words written out from the spec's encodings decode to the instructions they stand for. Basis derived: R91, R92, R93, 95_test_vectors.md section 8. -/
def Obligations.SpecWordsDecode : Prop :=
  decode (.acc 0x2000000000000000000000007#98) = .wrCmd 0 7 ∧
    decode (.acc 0x3000000020000000000000063#98) = .wrMsg 2 0x63 ∧
    decode (.acc 0x2800000000000000020000000#98) = .wrMsgLen 0 0x20000000 ∧
    decode (.acc 0x2c00000000000000000000041#98) = .wrPlen 0 65 ∧
    decode (.acc 0x0400000000000000000000000#98) = .rdStatus 0 0 ∧
    decode (.acc 0x1c000003f0000000000000000#98) = .rdHex 63 0 ∧
    decode (.acc 0x1800000070000000000000000#98) = .rdH 7 0 ∧
    decode (.acc 0x14000007e0000000000000000#98) = .rdPbuf 126 0 ∧
    decode (.cmd 0b011#3) = .compress ∧
    decode (.phase 0b1001#4) = .msxExp ∧
    decode (.phase 0b1100#4) = .accAdd

/-- O6. A step executes the decoded instruction of the agent whose turn it is. Basis derived: R208, R224, 45_host_commands.md section 4.
The pending list is the model's choice (log entry 1), a command event beside WR.CMD the model's reading (log entry 12).
R208 gives the sequencer a step exactly when BUSY = 1: that its turn in IDLE and in FAULT is a step too, one that changes nothing, is the model's
choice (log entry 11). -/
def Obligations.StepRunsTheDecodedInstruction : Prop :=
  ∀ (s : State) (rest : List Event),
    (s.pending = [] → step s = exec (decode (.phase (Phase.code s.phase))) s) ∧
    (s.pending = .sequencer :: rest →
      step s = exec (decode (.phase (Phase.code s.phase))) { s with pending := rest }) ∧
    (∀ word, s.pending = .access word :: rest → step s = exec (decode (.acc word)) { s with pending := rest }) ∧
    (∀ code, s.pending = .command code :: rest → step s = exec (decode (.cmd code)) { s with pending := rest }) ∧
    (s.pending = .resetInput :: rest → step s = .next (State.resetEvent { s with pending := rest }))

/-- O7. WR.CMD: RST resets in any PHASE, a working command is accepted in IDLE, everything else changes nothing. Basis stated: R200. -/
def Obligations.CommandDecodeAndAcceptance : Prop :=
  ∀ (addr : BitVec 30) (data : BitVec 64) (s : State), let c := data.toNat % 8
    (c = 7 → ∃ u, exec (.wrCmd addr data) s = .next u ∧
      u.phase = .idle ∧ u.mode = .none ∧ u.ptr = 0 ∧ u.blk = 0 ∧ u.t = 0 ∧ u.done = false ∧ u.err = .none ∧
      u.msgLen = 0 ∧ u.plen = 0 ∧
      SameBut [.phase, .mode, .ptr, .blk, .t, .done, .err, .msgLen, .plen] s u) ∧
    (1 ≤ c ∧ c ≤ 4 ∧ s.phase = .idle → ∃ u, exec (.wrCmd addr data) s = .next u ∧
      (Mode.code u.mode).toNat = c ∧ u.done = false ∧ u.ptr = 0 ∧ u.blk = 0 ∧ u.t = 0 ∧
      u.phase = (if c = 3 then .cmpChk else if c = 4 then .hexEnc else .padChk) ∧
      SameBut [.phase, .mode, .ptr, .blk, .t, .done] s u) ∧
    (c ≠ 7 ∧ ¬ (1 ≤ c ∧ c ≤ 4 ∧ s.phase = .idle) → exec (.wrCmd addr data) s = .next s)

/-- O8. HASH, PAD, COMPRESS and ENCODE start the sequencer in IDLE and change nothing anywhere else. Basis derived: R200, R202, R203, R204, R205, R245, R273. -/
def Obligations.WorkingCommandsStartInIdleOnly : Prop :=
  ∀ s : State, ∀ row ∈ [(Instr.hash, Mode.hash, Phase.padChk), (Instr.pad, Mode.pad, Phase.padChk),
      (Instr.compress, Mode.compress, Phase.cmpChk), (Instr.encode, Mode.encode, Phase.hexEnc)],
    (s.phase = .idle → ∃ u, exec row.1 s = .next u ∧ u.mode = row.2.1 ∧ u.phase = row.2.2 ∧ u.done = false ∧ u.ptr = 0 ∧
      u.blk = 0 ∧ u.t = 0 ∧ SameBut [.phase, .mode, .ptr, .blk, .t, .done] s u) ∧
    (s.phase ≠ .idle → exec row.1 s = .next s)

/-- O9. NOP, the reserved command codes 5 and 6, and the sequencer in IDLE and in FAULT change nothing. Basis derived: R201, R99, R208, R243.
That the turn of an idle or faulted sequencer is a step is the model's choice (log entry 11). -/
def Obligations.RowsThatChangeNothing : Prop :=
  ∀ (s : State) (i : Instr), i ∈ [Instr.nop, Instr.cmdReserved5, Instr.cmdReserved6, Instr.idle, Instr.fault] →
    exec i s = .next s

/-- O10. RST and the reset input are one reset event: the control values of R43 and nothing else written. Basis derived: R270, R206, R43.
The reset input as an event of the pending list, and the idle turn as a step that changes nothing, are the model's choices (log entries 1 and 11). -/
def Obligations.ResetEventFromBothTriggers : Prop :=
  ∀ s : State,
    (∃ u, exec .rst s = .next u ∧ u.phase = .idle ∧ u.mode = .none ∧ u.ptr = 0 ∧ u.blk = 0 ∧ u.t = 0 ∧ u.done = false ∧
      u.err = .none ∧ u.msgLen = 0 ∧ u.plen = 0 ∧ u.busy = false ∧ u.status = 0x00#8 ∧ exec u.phase.instr u = .next u ∧
      SameBut [.phase, .mode, .ptr, .blk, .t, .done, .err, .msgLen, .plen] s u) ∧
    (∀ rest, s.pending = .resetInput :: rest →
      ∃ u, step s = .next u ∧ exec .rst { s with pending := rest } = .next u)

/-- O11. WR.MSG_LEN writes MSG_LEN in IDLE and is ignored outside IDLE. Basis derived: R210, R94. -/
def Obligations.WrMsgLenInIdle : Prop :=
  ∀ (addr : BitVec 30) (data : BitVec 64) (s : State),
    (s.phase = .idle → ∃ u, exec (.wrMsgLen addr data) s = .next u ∧ u.msgLen = data ∧ SameBut [.msgLen] s u) ∧
    (s.phase ≠ .idle → exec (.wrMsgLen addr data) s = .next s)

/-- O12. WR.PLEN writes data[29:0] to PLEN in IDLE, dropping the rest, and is ignored outside IDLE. Basis derived: R211, R94. -/
def Obligations.WrPlenInIdle : Prop :=
  ∀ (addr : BitVec 30) (data : BitVec 64) (s : State),
    (s.phase = .idle → ∃ u, exec (.wrPlen addr data) s = .next u ∧ u.plen.toNat = data.toNat % 2 ^ 30 ∧ SameBut [.plen] s u) ∧
    (s.phase ≠ .idle → exec (.wrPlen addr data) s = .next s)

/-- O13. WR.MSG writes one byte of MSG in IDLE for an address below 2^29 and is ignored otherwise. Basis stated: R212. -/
def Obligations.WrMsgWritesOneByte : Prop :=
  ∀ (addr : BitVec 30) (data : BitVec 64) (s : State),
    (s.phase = .idle ∧ addr.toNat < 2 ^ 29 → ∃ u, exec (.wrMsg addr data) s = .next u ∧
      (u.readByte .msg addr.toNat).toNat = data.toNat % 256 ∧ SameOutside .msg addr.toNat 1 s u ∧ SameBut [.msg] s u) ∧
    (¬ (s.phase = .idle ∧ addr.toNat < 2 ^ 29) → exec (.wrMsg addr data) s = .next s)

/-- O14. WR.PBUF writes one byte of PBUF in IDLE at any 30-bit address and is ignored outside IDLE. Basis stated: R213. -/
def Obligations.WrPbufWritesOneByte : Prop :=
  ∀ (addr : BitVec 30) (data : BitVec 64) (s : State),
    (s.phase = .idle → ∃ u, exec (.wrPbuf addr data) s = .next u ∧
      (u.readByte .pbuf addr.toNat).toNat = data.toNat % 256 ∧ SameOutside .pbuf addr.toNat 1 s u ∧ SameBut [.pbuf] s u) ∧
    (s.phase ≠ .idle → exec (.wrPbuf addr data) s = .next s)

/-- O15. RD.STATUS returns BUSY, DONE and ERR in bits 0, 1 and 3:2, in every PHASE, with no side effect. Basis derived: R214, R31, R34, R42.
The list of replies is the model's choice (log entry 2). -/
def Obligations.RdStatusReturnsTheFlags : Prop :=
  ∀ (addr : BitVec 30) (data : BitVec 64) (s : State), ∃ (u : State) (v : BitVec 64),
    exec (.rdStatus addr data) s = .next u ∧ SameBut [.replies] s u ∧
    u.replies = s.replies ++ [⟨0#1, 0b001#3, addr, v⟩] ∧
    v.toNat = (if s.phase = .idle ∨ s.phase = .fault then 0 else 1) + 2 * (if s.done then 1 else 0) +
      4 * (match s.err with
        | .none => 0
        | .invalidInputLength => 1
        | .inputTooLarge => 2) ∧
    (s.legal = true → v.toNat ∈ [0x00, 0x01, 0x02, 0x04, 0x08])

/-- O16. RD.MSG_LEN and RD.PLEN return the length registers in every PHASE and change nothing. Basis derived: R215, R216.
The list of replies is the model's choice (log entry 2). -/
def Obligations.RdLengthsReturnTheRegisters : Prop :=
  ∀ (addr : BitVec 30) (data : BitVec 64) (s : State),
    (∃ u, exec (.rdMsgLen addr data) s = .next u ∧ SameBut [.replies] s u ∧
      u.replies = s.replies ++ [⟨0#1, 0b010#3, addr, s.msgLen⟩]) ∧
    (∃ (u : State) (v : BitVec 64), exec (.rdPlen addr data) s = .next u ∧ SameBut [.replies] s u ∧
      u.replies = s.replies ++ [⟨0#1, 0b011#3, addr, v⟩] ∧ v.toNat = s.plen.toNat)

/-- O17. RD.MSG returns the byte of MSG in IDLE for an address below 2^29, an unspecified value otherwise. Basis derived: R217, R94, 93_implementation_defined.md U2.
The list of replies and the form of the free value are the model's choices (log entries 2 and 3); the statement holds whatever the free value is. -/
def Obligations.RdMsgReadsInIdle : Prop :=
  ∀ (addr : BitVec 30) (data : BitVec 64) (s : State),
    (s.phase = .idle ∧ addr.toNat < 2 ^ 29 → ∃ (u : State) (v : BitVec 64), exec (.rdMsg addr data) s = .next u ∧ SameBut [.replies] s u ∧
      u.replies = s.replies ++ [⟨0#1, 0b100#3, addr, v⟩] ∧ v.toNat = (s.readByte .msg addr.toNat).toNat) ∧
    (¬ (s.phase = .idle ∧ addr.toNat < 2 ^ 29) → ∃ u, exec (.rdMsg addr data) s = .next u ∧ SameBut [.replies, .draws] s u ∧ u.draws = s.draws + 1 ∧
      u.replies = s.replies ++ [⟨0#1, 0b100#3, addr, Config.unspecifiedRead s.draws⟩])

/-- O18. RD.PBUF returns the byte of PBUF in IDLE, an unspecified value otherwise. Basis derived: R218, R94, 93_implementation_defined.md U2.
The list of replies and the form of the free value are the model's choices (log entries 2 and 3); the statement holds whatever the free value is. -/
def Obligations.RdPbufReadsInIdle : Prop :=
  ∀ (addr : BitVec 30) (data : BitVec 64) (s : State),
    (s.phase = .idle → ∃ (u : State) (v : BitVec 64), exec (.rdPbuf addr data) s = .next u ∧ SameBut [.replies] s u ∧
      u.replies = s.replies ++ [⟨0#1, 0b101#3, addr, v⟩] ∧ v.toNat = (s.readByte .pbuf addr.toNat).toNat) ∧
    (¬ (s.phase = .idle) → ∃ u, exec (.rdPbuf addr data) s = .next u ∧ SameBut [.replies, .draws] s u ∧ u.draws = s.draws + 1 ∧
      u.replies = s.replies ++ [⟨0#1, 0b101#3, addr, Config.unspecifiedRead s.draws⟩])

/-- O19. RD.H returns the word H[addr], RD.HEX the character code HEX[addr], in IDLE and in range; else an unspecified value. Basis derived: R219, R220, R94, 93_implementation_defined.md U2.
The list of replies and the form of the free value are the model's choices (log entries 2 and 3); the statement holds whatever the free value is. -/
def Obligations.RdHAndRdHexReadInIdle : Prop :=
  ∀ (addr : BitVec 30) (data : BitVec 64) (s : State),
    (s.phase = .idle ∧ addr.toNat < 8 → ∃ (u : State) (v : BitVec 64), exec (.rdH addr data) s = .next u ∧ SameBut [.replies] s u ∧
      u.replies = s.replies ++ [⟨0#1, 0b110#3, addr, v⟩] ∧ v.toNat = (s.h.toList.getD addr.toNat 0).toNat) ∧
    (¬ (s.phase = .idle ∧ addr.toNat < 8) → ∃ u, exec (.rdH addr data) s = .next u ∧ SameBut [.replies, .draws] s u ∧ u.draws = s.draws + 1 ∧
      u.replies = s.replies ++ [⟨0#1, 0b110#3, addr, Config.unspecifiedRead s.draws⟩]) ∧
    (s.phase = .idle ∧ addr.toNat < 64 → ∃ (u : State) (v : BitVec 64), exec (.rdHex addr data) s = .next u ∧ SameBut [.replies] s u ∧
      u.replies = s.replies ++ [⟨0#1, 0b111#3, addr, v⟩] ∧ v.toNat = (s.readByte .hex addr.toNat).toNat) ∧
    (¬ (s.phase = .idle ∧ addr.toNat < 64) → ∃ u, exec (.rdHex addr data) s = .next u ∧ SameBut [.replies, .draws] s u ∧ u.draws = s.draws + 1 ∧
      u.replies = s.replies ++ [⟨0#1, 0b111#3, addr, Config.unspecifiedRead s.draws⟩])

/-- O20. RD.CMD returns 0; WR.STATUS, WR.H and WR.HEX change nothing, in every PHASE. Basis derived: R221, R99.
The list of replies is the model's choice (log entry 2). -/
def Obligations.RemainingHeadersAreIgnored : Prop :=
  ∀ (addr : BitVec 30) (data : BitVec 64) (s : State),
    (∃ u, exec (.rdCmd addr data) s = .next u ∧ SameBut [.replies] s u ∧
      u.replies = s.replies ++ [⟨0#1, 0b000#3, addr, 0⟩]) ∧
    exec (.wrStatus addr data) s = .next s ∧ exec (.wrH addr data) s = .next s ∧ exec (.wrHex addr data) s = .next s

/-- O21. Every host read answers one record of the request's own header and address and changes no state of the hardware. Basis derived: R69, R92, R94.
The list of replies and the draw counter are the model's choices (log entries 2 and 3). -/
def Obligations.ReadsReplyOnceAndWriteNothing : Prop :=
  ∀ (word : BitVec 98) (s : State), word.getLsbD 97 = false →
    ∃ (u : State) (v : BitVec 64), exec (decode (.acc word)) s = .next u ∧ SameBut [.replies, .draws] s u ∧
      u.replies = s.replies ++ [⟨word.extractLsb' 97 1, word.extractLsb' 94 3, word.extractLsb' 64 30, v⟩]

/-- O22. While a command runs no host access but RST changes anything the hardware holds. Basis derived: R73, R224, R200, R210, R211, R212, R213.
The list of replies and the draw counter are the model's choices (log entries 2 and 3). -/
def Obligations.AccessWhileBusyChangesNothing : Prop :=
  ∀ (word : BitVec 98) (s : State), s.busy = true →
    ∃ u, exec (decode (.acc word)) s = .next u ∧
      ((word.extractLsb' 94 4 = 0b1000#4 ∧ word.extractLsb' 0 3 = 7#3 ∧ exec .rst s = .next u) ∨
       (¬ (word.extractLsb' 94 4 = 0b1000#4 ∧ word.extractLsb' 0 3 = 7#3) ∧ SameBut [.replies, .draws] s u))

/-- O23. PAD.CHK: InputTooLarge for 2^29 bytes or more, else on to the marker or to the copy. Basis stated: R121. -/
def Obligations.PadChkChecksTheSize : Prop :=
  ∀ s : State, s.phase = .padChk → s.legal = true → ∃ u, exec .padChk s = .next u ∧
    (2 ^ 29 ≤ s.msgLen.toNat → u.phase = .fault ∧ u.err = .inputTooLarge ∧ SameBut [.phase, .err] s u) ∧
    (s.msgLen.toNat < 2 ^ 29 →
      u.phase = (if s.msgLen.toNat = 0 then .padMark else .padCopy) ∧ SameBut [.phase] s u)

/-- O24. PAD.COPY copies MSG[PTR] to PBUF[PTR] and moves PTR on by one. Basis derived: R122, R11, R208. -/
def Obligations.PadCopyCopiesOneByte : Prop :=
  ∀ s : State, s.phase = .padCopy → s.legal = true → ∃ u, exec .padCopy s = .next u ∧
    u.readByte .pbuf s.ptr.toNat = s.readByte .msg s.ptr.toNat ∧ SameOutside .pbuf s.ptr.toNat 1 s u ∧
    u.ptr.toNat = s.ptr.toNat + 1 ∧ u.phase = (if s.ptr.toNat + 1 < s.msgLen.toNat then .padCopy else .padMark) ∧
    SameBut [.phase, .ptr, .pbuf] s u

/-- O25. PAD.MARK appends the single byte 0x80 and moves PTR on by one. Basis derived: R123, R11, R208. -/
def Obligations.PadMarkAppendsTheMarker : Prop :=
  ∀ s : State, s.phase = .padMark → s.legal = true → ∃ u, exec .padMark s = .next u ∧
    u.readByte .pbuf s.ptr.toNat = 0x80#8 ∧ SameOutside .pbuf s.ptr.toNat 1 s u ∧ u.ptr.toNat = s.ptr.toNat + 1 ∧
    u.phase = (if (s.ptr.toNat + 1) % 64 = 56 then .padLen else .padZero) ∧ SameBut [.phase, .ptr, .pbuf] s u

/-- O26. PAD.ZERO appends one zero byte and moves PTR on by one. Basis derived: R124, R11, R208. -/
def Obligations.PadZeroAppendsOneZero : Prop :=
  ∀ s : State, s.phase = .padZero → s.legal = true → ∃ u, exec .padZero s = .next u ∧
    u.readByte .pbuf s.ptr.toNat = 0x00#8 ∧ SameOutside .pbuf s.ptr.toNat 1 s u ∧ u.ptr.toNat = s.ptr.toNat + 1 ∧
    u.phase = (if (s.ptr.toNat + 1) % 64 = 56 then .padLen else .padZero) ∧ SameBut [.phase, .ptr, .pbuf] s u

/-- O27. PAD.LEN appends the 8-byte big-endian bit length, sets PTR and PLEN past it and hands over or finishes. Basis stated: R125. -/
def Obligations.PadLenAppendsTheLengthField : Prop :=
  ∀ s : State, s.phase = .padLen → s.legal = true → ∃ u, exec .padLen s = .next u ∧
    (∀ n < 4, u.readByte .pbuf (s.ptr.toNat + n) = 0x00#8) ∧
    (∀ n < 4, (u.readByte .pbuf (s.ptr.toNat + 4 + n)).toNat = 8 * s.msgLen.toNat / 256 ^ (3 - n) % 256) ∧
    SameOutside .pbuf s.ptr.toNat 8 s u ∧ u.ptr.toNat = s.ptr.toNat + 8 ∧ u.plen.toNat = s.ptr.toNat + 8 ∧
    u.plen.toNat % 64 = 0 ∧
    (s.mode = .hash → u.phase = .cmpChk ∧ u.done = s.done) ∧ (s.mode ≠ .hash → u.phase = .idle ∧ u.done = true) ∧
    SameBut [.phase, .ptr, .plen, .pbuf, .done] s u

/-- O28. MSX.LOAD loads the big-endian word T of block BLK into W[T] and moves T on. Basis derived: R142, R11, R208. -/
def Obligations.MsxLoadLoadsOneWord : Prop :=
  ∀ s : State, s.phase = .msxLoad → s.legal = true → let a := 64 * s.blk.toNat + 4 * s.t.toNat
    ∃ u, exec .msxLoad s = .next u ∧
    (u.wAt s.t.toNat).toNat = (s.readByte .pbuf a).toNat * 2 ^ 24 + (s.readByte .pbuf (a + 1)).toNat * 2 ^ 16 +
      (s.readByte .pbuf (a + 2)).toNat * 2 ^ 8 + (s.readByte .pbuf (a + 3)).toNat ∧
    (∀ j < 64, j ≠ s.t.toNat → u.wAt j = s.wAt j) ∧
    (s.t.toNat < 15 → u.t.toNat = s.t.toNat + 1 ∧ u.phase = .msxLoad) ∧
    (s.t.toNat = 15 → u.t.toNat = 16 ∧ u.phase = .msxExp) ∧ SameBut [.phase, .t, .w] s u

/-- O29. MSX.EXP derives W[T] from four earlier words and moves T on. Basis derived: R143, R11, R208. -/
def Obligations.MsxExpDerivesOneWord : Prop :=
  ∀ s : State, s.phase = .msxExp → s.legal = true → let n := s.t.toNat
    ∃ u, exec .msxExp s = .next u ∧
    u.wAt n = s.wAt (n - 16) + sigma0 (s.wAt (n - 15)) + s.wAt (n - 7) + sigma1 (s.wAt (n - 2)) ∧
    (∀ j < 64, j ≠ n → u.wAt j = s.wAt j) ∧
    (n < 63 → u.t.toNat = n + 1 ∧ u.phase = .msxExp) ∧ (n = 63 → u.t.toNat = 0 ∧ u.phase = .rndInit) ∧
    16 ≤ n ∧ SameBut [.phase, .t, .w] s u

/-- O30. RND.INIT loads a..h from H[0..7]. Basis stated: R159. -/
def Obligations.RndInitLoadsTheWorkingVariables : Prop :=
  ∀ s : State, s.phase = .rndInit → s.legal = true → ∃ u, exec .rndInit s = .next u ∧
    (∀ i : Fin 8, u.v[i] = s.h[i]) ∧ u.t = 0 ∧ u.phase = .rndStep ∧ SameBut [.phase, .t, .v] s u

/-- O31. RND.STEP applies one round with K[T] and W[T] and moves T on. Basis derived: R160, R11, R208.
R160's precondition has W = schedule of the current block: that the round has this effect whatever W is, is the model's reading (log entry 9). -/
def Obligations.RndStepAppliesOneRound : Prop :=
  ∀ s : State, s.phase = .rndStep → s.legal = true →
    let a := s.v[0]; let b := s.v[1]; let c := s.v[2]; let d := s.v[3]
    let e := s.v[4]; let f := s.v[5]; let g := s.v[6]; let h := s.v[7]
    let t1 := h + bigSigma1 e + ch e f g + kList.getD s.t.toNat 0 + s.wAt s.t.toNat
    let t2 := bigSigma0 a + maj a b c
    ∃ u, exec .rndStep s = .next u ∧
    u.v[0] = t1 + t2 ∧ u.v[1] = a ∧ u.v[2] = b ∧ u.v[3] = c ∧ u.v[4] = d + t1 ∧ u.v[5] = e ∧ u.v[6] = f ∧ u.v[7] = g ∧
    (s.t.toNat < 63 → u.t.toNat = s.t.toNat + 1 ∧ u.phase = .rndStep) ∧
    (s.t.toNat = 63 → u.t.toNat = 0 ∧ u.phase = .accAdd) ∧ SameBut [.phase, .t, .v] s u

/-- O32. CMP.CHK: InvalidInputLength unless PLEN is a multiple of 64, else on to ACC.IV; never a fault under HASH. Basis derived: R175, R127.
The last clause, that the check never fails under HASH, is marked in R175 as the spec's own inference from R127; it is stated over the
model's invariant of every run (State.Inv). -/
def Obligations.CmpChkChecksTheLength : Prop :=
  ∀ s : State, s.phase = .cmpChk → s.legal = true → ∃ u, exec .cmpChk s = .next u ∧
    (s.plen.toNat % 64 ≠ 0 → u.phase = .fault ∧ u.err = .invalidInputLength ∧ SameBut [.phase, .err] s u) ∧
    (s.plen.toNat % 64 = 0 → u.phase = .accIv ∧ SameBut [.phase] s u) ∧
    (s.Inv → s.mode = .hash → u.phase = .accIv)

/-- O33. ACC.IV sets H to the eight initial constants and starts the block loop, or ends a run of no block. Basis derived: R176, R11, R208. -/
def Obligations.AccIvSetsTheInitialConstants : Prop :=
  ∀ s : State, s.phase = .accIv → s.legal = true → ∃ u, exec .accIv s = .next u ∧
    u.h = #v[0x6a09e667#32, 0xbb67ae85#32, 0x3c6ef372#32, 0xa54ff53a#32, 0x510e527f#32, 0x9b05688c#32, 0x1f83d9ab#32,
      0x5be0cd19#32] ∧ u.blk = 0 ∧ u.t = 0 ∧
    (0 < s.plen.toNat → u.phase = .msxLoad ∧ u.done = s.done) ∧
    (s.plen.toNat = 0 → s.mode = .hash → u.phase = .hexEnc ∧ u.done = s.done) ∧
    (s.plen.toNat = 0 → s.mode ≠ .hash → u.phase = .idle ∧ u.done = true) ∧
    SameBut [.phase, .h, .blk, .t, .done] s u

/-- O34. ACC.ADD adds a..h to H word by word modulo 2^32 and goes to the next block or hands over. Basis derived: R177, R11, R208. -/
def Obligations.AccAddMixesTheBlockIn : Prop :=
  ∀ s : State, s.phase = .accAdd → s.legal = true → ∃ u, exec .accAdd s = .next u ∧
    (∀ i : Fin 8, u.h[i].toNat = (s.h[i].toNat + s.v[i].toNat) % 2 ^ 32) ∧ u.blk.toNat = s.blk.toNat + 1 ∧ u.t = 0 ∧
    (64 * (s.blk.toNat + 1) < s.plen.toNat → u.phase = .msxLoad ∧ u.done = s.done) ∧
    (s.plen.toNat ≤ 64 * (s.blk.toNat + 1) → s.mode = .hash → u.phase = .hexEnc ∧ u.done = s.done) ∧
    (s.plen.toNat ≤ 64 * (s.blk.toNat + 1) → s.mode ≠ .hash → u.phase = .idle ∧ u.done = true) ∧
    SameBut [.phase, .h, .blk, .t, .done] s u

/-- O35. HEX.ENC writes the eight hex characters of H[T], most significant nibble first, and moves T on or finishes. Basis derived: R191, R11, R208. -/
def Obligations.HexEncEncodesOneWord : Prop :=
  ∀ s : State, s.phase = .hexEnc → s.legal = true → let n := s.t.toNat
    ∃ u, exec .hexEnc s = .next u ∧
    (∀ j < 8, u.readByte .hex (8 * n + j) = hexChar (BitVec.ofNat 4 ((s.h.toList.getD n 0).toNat / 16 ^ (7 - j)))) ∧
    SameOutside .hex (8 * n) 8 s u ∧
    (n < 7 → u.t.toNat = n + 1 ∧ u.phase = .hexEnc ∧ u.done = s.done) ∧
    (n = 7 → u.t.toNat = 0 ∧ u.phase = .idle ∧ u.done = true) ∧ SameBut [.phase, .t, .hex, .done] s u

/-- O36. The reserved PHASE code 14 stops the machine by name in every state. Basis derived: R99, 93_implementation_defined.md U5.
That code 14 is a value of PHASE, stuck by a named fault, is the model's choice (log entry 7). -/
def Obligations.ReservedPhaseStops : Prop :=
  ∀ s : State, exec .phaseReserved14 s = .fault .stuckReservedPhase

/-- O37. A micro-operation in a state outside the invariants, or one PHASE does not name, is refused by name. Basis derived: R42, R71, 93_implementation_defined.md U7.
The refusal, where the spec allows stuck or refuse, is the model's choice (log entry 6). -/
def Obligations.MicroOperationRefusedOutsideInvariants : Prop :=
  ∀ (p : Phase) (s : State), p ≠ .idle → p ≠ .fault → p ≠ .reserved14 → ¬ (s.phase = p ∧ s.legal = true) →
    exec p.instr s = .refused (.outsideInvariants p)

/-- O38. H, V, W, HEX and MSG_LEN are changed only by the operations that own them. Basis derived: R20, R21, R22, R25, R28. -/
def Obligations.RegisterFilesHaveOneWriter : Prop :=
  ∀ (i : Instr) (s u : State), exec i s = .next u →
    (u.h ≠ s.h → i = .accIv ∨ i = .accAdd) ∧ (u.v ≠ s.v → i = .rndInit ∨ i = .rndStep) ∧
    (u.w ≠ s.w → i = .msxLoad ∨ i = .msxExp) ∧ (u.hex ≠ s.hex → i = .hexEnc) ∧
    (u.msgLen ≠ s.msgLen → (∃ a d, i = .wrMsgLen a d) ∨ i = .rst ∨ ∃ a d, i = .wrCmd a d ∧ d.toNat % 8 = 7)

/-- O39. MSG is written only by the host in IDLE; PBUF and PLEN only by the padder and by the host in IDLE, PLEN also by a reset in any PHASE. Basis derived: R26, R27, R60, R29, R43, R206, R270. -/
def Obligations.MemoriesHaveTheirWriters : Prop :=
  ∀ (i : Instr) (s u : State), exec i s = .next u →
    (u.msg ≠ s.msg → s.phase = .idle ∧ ∃ a d, i = .wrMsg a d) ∧
    (u.pbuf ≠ s.pbuf →
      i = .padCopy ∨ i = .padMark ∨ i = .padZero ∨ i = .padLen ∨ (s.phase = .idle ∧ ∃ a d, i = .wrPbuf a d)) ∧
    (u.plen ≠ s.plen →
      i = .padLen ∨ (s.phase = .idle ∧ ∃ a d, i = .wrPlen a d) ∨ i = .rst ∨ ∃ a d, i = .wrCmd a d ∧ d.toNat % 8 = 7)

/-- O40. A fault is sticky: in FAULT a step changes nothing the hardware holds unless it is a reset. Basis derived: R32, R245, R246, R243, R206, R270, R208.
The pending list, the list of replies and the draw counter are the model's choices (log entries 1, 2, 3).
R208 gives FAULT no step: that the sequencer's turn there answers a next state is the model's choice (log entry 11). -/
def Obligations.FaultIsLeftOnlyByReset : Prop :=
  ∀ s : State, s.phase = .fault → ∃ u, step s = .next u ∧
    (SameBut [.pending, .replies, .draws] s u ∨
      (u.phase = .idle ∧ u.err = .none ∧ u.done = false ∧ u.msgLen = 0 ∧ u.plen = 0 ∧
        ∃ rest, s.pending = .resetInput :: rest ∨ s.pending = .command 7#3 :: rest ∨
          ∃ word : BitVec 98, s.pending = .access word :: rest ∧ word.extractLsb' 94 4 = 0b1000#4 ∧
            word.extractLsb' 0 3 = 7#3))

/-- O41. The invariant of every run is kept by every step, from every state that meets it, whatever event comes next. Basis derived: R42, R71, R25, R127, 20_memory.md section 4.
The invariant adds to R42 and R71 what makes it inductive, and the canonical form of the memories is the model's choice (log entry 5). -/
def Obligations.EveryStepKeepsTheInvariant : Prop :=
  ∀ s u : State, s.Inv → step s = .next u → u.Inv

/-- O42. The state after power-on reset meets the invariant, whatever events are pending, and its control state has the values of R43. Basis derived: R43, R270, R271, 10_state.md section 8.
The values H, V, W, HEX, MSG and PBUF have at power-on are the model's choices (log entries 4 and 5) and are not claimed. -/
def Obligations.ResetMeetsTheInvariant : Prop :=
  (∀ events : List Event, ({ State.reset with pending := events } : State).Inv) ∧
    State.reset.phase = .idle ∧ State.reset.mode = .none ∧ State.reset.ptr = 0 ∧ State.reset.blk = 0 ∧ State.reset.t = 0 ∧
    State.reset.done = false ∧ State.reset.err = .none ∧ State.reset.msgLen = 0 ∧ State.reset.plen = 0 ∧
    State.reset.status = 0x00#8

/-- O43. From a state of the invariant every step answers a next state: no hang, no stop, no wait. Basis derived: R276, R240, R71.
That the turn of an idle or faulted sequencer is a step is the model's choice (log entry 11). -/
def Obligations.EveryStepOfARunAnswersNext : Prop :=
  ∀ s : State, s.Inv → ∃ u, step s = .next u

/-- O44. Every state a run from reset reaches, whatever events the host sends, has the invariants (a) to (f) of R42. Basis derived: R42, R209, R243.
R42 is marked in the spec as its own inference from R209 and R243. That the events of a run are any list, and that the turn of an idle or
faulted sequencer is a step, are the model's choices (log entries 1 and 11). -/
def Obligations.ReachableStatesMeetR42 : Prop :=
  ∀ (events : List Event) (k : Nat) (s : State), runSteps k { State.reset with pending := events } = .next s →
    (s.phase = .fault ↔ s.err ≠ .none) ∧
    (s.done = true → s.phase = .idle ∧ s.err = .none) ∧
    (s.phase = .padCopy → s.ptr.toNat < s.msgLen.toNat ∧ s.msgLen.toNat < 2 ^ 29) ∧
    (s.phase = .padMark → s.ptr.toNat = s.msgLen.toNat) ∧
    (s.phase = .padZero → s.msgLen.toNat < s.ptr.toNat ∧ s.ptr.toNat % 64 ≠ 56) ∧
    (s.phase = .padLen → s.ptr.toNat % 64 = 56) ∧
    (s.phase = .msxLoad → s.t.toNat ≤ 15) ∧ (s.phase = .msxExp → 16 ≤ s.t.toNat ∧ s.t.toNat ≤ 63) ∧
    (s.phase = .rndStep → s.t.toNat ≤ 63) ∧ (s.phase = .hexEnc → s.t.toNat ≤ 7) ∧
    (s.phase ∉ [Phase.msxLoad, .msxExp, .rndStep, .hexEnc] → s.t = 0) ∧
    (s.phase ∈ [Phase.msxLoad, .msxExp, .rndInit, .rndStep, .accAdd] →
      s.plen.toNat % 64 = 0 ∧ 64 * s.blk.toNat + 64 ≤ s.plen.toNat) ∧
    (s.phase ∈ [Phase.padChk, .padCopy, .padMark, .padZero, .padLen] → s.mode = .hash ∨ s.mode = .pad) ∧
    (s.phase ∈ [Phase.cmpChk, .accIv, .msxLoad, .msxExp, .rndInit, .rndStep, .accAdd] → s.mode = .hash ∨ s.mode = .compress) ∧
    (s.phase = .hexEnc → s.mode = .hash ∨ s.mode = .encode)

/-- O45. What the sequencer does depends on nothing of the host's side. Basis derived: R223, R224, R73.
The three fields named are the model's own (log entries 1, 2, 3). -/
def Obligations.SequencerIgnoresTheHostsSide : Prop :=
  ∀ (p : Phase) (s s' u : State), SameBut [.pending, .replies, .draws] s s' → exec p.instr s = .next u →
    ∃ u', exec p.instr s' = .next u' ∧ SameBut [.pending, .replies, .draws] u u'

/-- O46. A multi-byte write is so many byte writes: every narrower read sees its own slice, and every other byte is unchanged. Basis derived: R63, R62, R10. -/
def Obligations.WritesReachOnlyTheirOwnBytes : Prop :=
  ∀ (s : State) (sp : Space) (p v : Nat), v < 2 ^ 64 → let u := s.memWrite sp p 8 v
    u.memRead sp p 4 = v / 2 ^ 32 ∧ u.memRead sp (p + 4) 4 = v % 2 ^ 32 ∧ (u.readByte sp (p + 7)).toNat = v % 256 ∧
    u.memRead sp p 8 = v ∧ SameOutside sp p 8 s u ∧ ∀ sp' x, sp' ≠ sp → u.readByte sp' x = s.readByte sp' x

/-- O47. ROTR is the circular right rotation: bit i of the result is bit (i + n) mod 32. Basis stated: R7. -/
def Obligations.RotationMovesEveryBit : Prop :=
  ∀ (x : Word) (n i : Nat), 0 < n → n < 32 → i < 32 →
    (rotr x n).getLsbD i = x.getLsbD ((i + n) % 32) ∧
    (rotr x n).toNat = x.toNat / 2 ^ n ||| (x.toNat * 2 ^ (32 - n)) % 2 ^ 32

/-- O48. Ch chooses bit by bit, Maj is the majority bit by bit, and Maj is symmetric. Basis stated: R155, R156. -/
def Obligations.ChChoosesAndMajTakesTheMajority : Prop :=
  ∀ x y z : Word,
    ch x y z = (x &&& y) ^^^ (~~~x &&& z) ∧ maj x y z = (x &&& y) ^^^ (x &&& z) ^^^ (y &&& z) ∧
    (∀ i : Nat, (ch x y z).getLsbD i = if x.getLsbD i then y.getLsbD i else z.getLsbD i) ∧
    (∀ i : Nat, (maj x y z).getLsbD i = ((x.getLsbD i && y.getLsbD i) || (x.getLsbD i && z.getLsbD i) ||
      (y.getLsbD i && z.getLsbD i))) ∧
    maj x y z = maj y x z ∧ maj x y z = maj x z y ∧
    ch 0xffffffff y z = y ∧ ch 0 y z = z ∧ ch x y y = y ∧
    maj x x z = x ∧ maj 0xffffffff y z = (y ||| z) ∧ maj 0 y z = (y &&& z) ∧
    ch 0xf0f0f0f0 0x12345678 0x9abcdef0 = 0x1a3c5e70 ∧ maj 0xf0f0f0f0 0x12345678 0x9abcdef0 = 0x92b4d6f0

/-- O49. For fixed k and w a round is a bijection of the working variables. Basis derived: R162, R161. -/
def Obligations.RoundIsABijection : Prop :=
  ∀ k w : Word, Function.Bijective fun v : Vector Word 8 => oneRound v k w

/-- O50. schedule(B) has 64 words: the block's big-endian words, every bit of the block in one bit, and then the recurrence. Basis stated: R144, R95. -/
def Obligations.ScheduleIsTheRecurrence : Prop :=
  ∀ block : List Byte, block.length = 64 → let ws := schedule block
    ws.length = 64 ∧
    (∀ t < 16, (ws.getD t 0).toNat = (block.getD (4 * t) 0).toNat * 2 ^ 24 + (block.getD (4 * t + 1) 0).toNat * 2 ^ 16 +
      (block.getD (4 * t + 2) 0).toNat * 2 ^ 8 + (block.getD (4 * t + 3) 0).toNat) ∧
    (∀ t < 16, ∀ i < 32, (ws.getD t 0).getLsbD i = (block.getD (4 * t + 3 - i / 8) 0).getLsbD (i % 8)) ∧
    (∀ t, 16 ≤ t → t < 64 →
      ws.getD t 0 = ws.getD (t - 16) 0 + sigma0 (ws.getD (t - 15) 0) + ws.getD (t - 7) 0 + sigma1 (ws.getD (t - 2) 0))

/-- O51. The padded length is the least multiple of 64 that is at least the message length plus 9. Basis derived: R127, R120, R103. -/
def Obligations.PaddedLengthIsTheLeastMultiple : Prop :=
  ∀ m : List Byte,
    (m.length < 2 ^ 29 → ∃ p, padMessage m = some p ∧ p.length = 64 * ((m.length + 8) / 64 + 1) ∧
      p.length = paddedLength m.length ∧ p.length % 64 = 0 ∧ m.length + 9 ≤ p.length ∧ p.length ≤ m.length + 72 ∧
      p.length ≤ 2 ^ 29 + 64 ∧ (∀ q, q % 64 = 0 → m.length + 9 ≤ q → p.length ≤ q) ∧
      p.take m.length = m ∧ p.getD m.length 0 = 0x80#8) ∧
    (2 ^ 29 ≤ m.length → padMessage m = none)

/-- O52. Two different messages never give the same padded buffer. Basis derived: R127, R120. -/
def Obligations.PadIsInjective : Prop :=
  ∀ (m m' p : List Byte), padMessage m = some p → padMessage m' = some p → m = m'

/-- O53. encode_hex gives 64 lowercase hex character codes and different digest words give different strings. Basis derived: R192, R193, R97. -/
def Obligations.EncodeHexIsInjective : Prop :=
  (∀ h : Vector Word 8, (encodeHex h).length = 64 ∧ ∀ b ∈ encodeHex h, isHexCode b = true) ∧
    (∀ h h' : Vector Word 8, encodeHex h = encodeHex h' → h = h')

/-- O54. The padder's run leaves pad(m) in PBUF after PLEN - 6 steps. Basis derived: R126, R275, R120.
Nothing pending means that every step is the sequencer's (log entry 1). -/
def Obligations.PadderRunPadsTheMessage : Prop :=
  ∀ s : State, s.phase = .padChk → s.legal = true → s.ptr = 0 → s.pending = [] → s.msgLen.toNat < 2 ^ 29 →
    let n := paddedLength s.msgLen.toNat
    ∃ u, runSteps (n - 6) s = .next u ∧ padMessage s.message = some u.paddedBuffer ∧ u.plen.toNat = n ∧ u.ptr.toNat = n ∧
    (∀ x, n ≤ x → u.readByte .pbuf x = s.readByte .pbuf x) ∧
    (s.mode = .hash → u.phase = .cmpChk ∧ u.done = s.done) ∧ (s.mode ≠ .hash → u.phase = .idle ∧ u.done = true) ∧
    SameBut [.phase, .ptr, .plen, .pbuf, .done] s u

/-- O55. 64 steps from MSX_LOAD leave schedule of the block in W and change nothing else. Basis derived: R145, R144, R146.
Nothing pending means that every step is the sequencer's (log entry 1). -/
def Obligations.ScheduleRunExpandsTheBlock : Prop :=
  ∀ s : State, s.phase = .msxLoad → s.legal = true → s.t = 0 → s.pending = [] →
    ∃ u, runSteps 64 s = .next u ∧ u.phase = .rndInit ∧ u.t = 0 ∧ u.w.toList = schedule (s.block s.blk.toNat) ∧
    SameBut [.phase, .t, .w] s u

/-- O56. 65 steps from RND_INIT leave rounds64(H, W) in V and change nothing else. Basis derived: R162, R161.
Nothing pending means that every step is the sequencer's (log entry 1). That the rounds have this effect whatever W is, is the model's
reading (log entry 9). -/
def Obligations.RoundRunAppliesSixtyFourRounds : Prop :=
  ∀ s : State, s.phase = .rndInit → s.legal = true → s.pending = [] →
    ∃ u, runSteps 65 s = .next u ∧ u.phase = .accAdd ∧ u.t = 0 ∧ u.v = rounds64 s.h s.w.toList ∧
    SameBut [.phase, .t, .v] s u

/-- O57. The compressor's run leaves compress(PBUF[0..PLEN-1]) in H after 2 + 130 N steps, N = 0 included. Basis derived: R180, R179, R181, R275.
Nothing pending means that every step is the sequencer's (log entry 1). -/
def Obligations.CompressorRunCompressesTheBuffer : Prop :=
  ∀ s : State, s.phase = .cmpChk → s.legal = true → s.pending = [] → s.plen.toNat % 64 = 0 →
    ∃ u, runSteps (2 + 130 * (s.plen.toNat / 64)) s = .next u ∧ compressBuffer s.paddedBuffer = some u.h ∧
    u.blk.toNat = s.plen.toNat / 64 ∧ u.t = 0 ∧
    (s.mode = .hash → u.phase = .hexEnc ∧ u.done = s.done) ∧ (s.mode ≠ .hash → u.phase = .idle ∧ u.done = true) ∧
    SameBut [.phase, .blk, .t, .h, .v, .w, .done] s u

/-- O58. Eight steps from HEX_ENC leave encode_hex(H) in HEX and finish. Basis derived: R193, R192, R275.
Nothing pending means that every step is the sequencer's (log entry 1). -/
def Obligations.EncoderRunWritesTheHexDigest : Prop :=
  ∀ s : State, s.phase = .hexEnc → s.legal = true → s.t = 0 → s.pending = [] →
    ∃ u, runSteps 8 s = .next u ∧ u.readBytes .hex 0 64 = encodeHex s.h ∧ u.t = 0 ∧ u.phase = .idle ∧ u.done = true ∧
    SameBut [.phase, .t, .done, .hex] s u

/-- O59. The HASH command run to its end leaves hash(m) in HEX, compress(pad(m)) in H and pad(m) in PBUF. Basis derived: R222, R202, R275, R223.
The command is the one pending event, so every later step is the sequencer's (log entries 1 and 12). -/
def Obligations.HashCommandComputesSha256 : Prop :=
  ∀ s : State, s.phase = .idle → s.legal = true → s.pending = [.command 0b001#3] → s.msgLen.toNat < 2 ^ 29 →
    let n := paddedLength s.msgLen.toNat
    ∃ u, runSteps (1 + (n + 4 + 130 * (n / 64))) s = .next u ∧ u.endedWell = true ∧ u.err = .none ∧
    hashMessage s.message = some (u.readBytes .hex 0 64) ∧ compressBuffer u.paddedBuffer = some u.h ∧
    padMessage s.message = some u.paddedBuffer ∧ u.plen.toNat = n ∧
    SameBut [.phase, .mode, .ptr, .blk, .t, .done, .plen, .h, .v, .w, .hex, .pbuf, .pending] s u

/-- O60. A command that faults does so in its first step and leaves every data register and memory as it was. Basis derived: R240, R241, R242, R243, R245.
The command is the one pending event, so the later step is the sequencer's (log entries 1 and 12). -/
def Obligations.RefusedCommandLeavesTheData : Prop :=
  ∀ (s : State) (code : BitVec 3), s.phase = .idle → s.legal = true → s.pending = [.command code] →
    ((code = 1#3 ∨ code = 2#3) ∧ 2 ^ 29 ≤ s.msgLen.toNat → ∃ u, runSteps 2 s = .next u ∧ u.endedInFault = true ∧
      u.phase = .fault ∧ u.err = .inputTooLarge ∧ u.status = 0x08#8 ∧
      SameBut [.phase, .mode, .ptr, .blk, .t, .done, .err, .pending] s u) ∧
    (code = 3#3 ∧ s.plen.toNat % 64 ≠ 0 → ∃ u, runSteps 2 s = .next u ∧ u.endedInFault = true ∧
      u.phase = .fault ∧ u.err = .invalidInputLength ∧ u.status = 0x04#8 ∧
      SameBut [.phase, .mode, .ptr, .blk, .t, .done, .err, .pending] s u)
end

