-- ==== Sys2Proof/Laws/State.lean ====
section
/-! SUPPORT. What each named update of the state leaves in each field, so that no later proof unfolds a record update. -/

namespace Sys2Proof.Machine

/-! ### `State.reply` -/

@[simp] theorem State.reply_phase (s : State) (sel : BitVec 3) (addr : BitVec 30) (value : BitVec 64) :
    (s.reply sel addr value).phase = s.phase := rfl

@[simp] theorem State.reply_mode (s : State) (sel : BitVec 3) (addr : BitVec 30) (value : BitVec 64) :
    (s.reply sel addr value).mode = s.mode := rfl

@[simp] theorem State.reply_ptr (s : State) (sel : BitVec 3) (addr : BitVec 30) (value : BitVec 64) :
    (s.reply sel addr value).ptr = s.ptr := rfl

@[simp] theorem State.reply_blk (s : State) (sel : BitVec 3) (addr : BitVec 30) (value : BitVec 64) :
    (s.reply sel addr value).blk = s.blk := rfl

@[simp] theorem State.reply_t (s : State) (sel : BitVec 3) (addr : BitVec 30) (value : BitVec 64) :
    (s.reply sel addr value).t = s.t := rfl

@[simp] theorem State.reply_done (s : State) (sel : BitVec 3) (addr : BitVec 30) (value : BitVec 64) :
    (s.reply sel addr value).done = s.done := rfl

@[simp] theorem State.reply_err (s : State) (sel : BitVec 3) (addr : BitVec 30) (value : BitVec 64) :
    (s.reply sel addr value).err = s.err := rfl

@[simp] theorem State.reply_msgLen (s : State) (sel : BitVec 3) (addr : BitVec 30) (value : BitVec 64) :
    (s.reply sel addr value).msgLen = s.msgLen := rfl

@[simp] theorem State.reply_plen (s : State) (sel : BitVec 3) (addr : BitVec 30) (value : BitVec 64) :
    (s.reply sel addr value).plen = s.plen := rfl

@[simp] theorem State.reply_h (s : State) (sel : BitVec 3) (addr : BitVec 30) (value : BitVec 64) :
    (s.reply sel addr value).h = s.h := rfl

@[simp] theorem State.reply_v (s : State) (sel : BitVec 3) (addr : BitVec 30) (value : BitVec 64) :
    (s.reply sel addr value).v = s.v := rfl

@[simp] theorem State.reply_w (s : State) (sel : BitVec 3) (addr : BitVec 30) (value : BitVec 64) :
    (s.reply sel addr value).w = s.w := rfl

@[simp] theorem State.reply_hex (s : State) (sel : BitVec 3) (addr : BitVec 30) (value : BitVec 64) :
    (s.reply sel addr value).hex = s.hex := rfl

@[simp] theorem State.reply_msg (s : State) (sel : BitVec 3) (addr : BitVec 30) (value : BitVec 64) :
    (s.reply sel addr value).msg = s.msg := rfl

@[simp] theorem State.reply_pbuf (s : State) (sel : BitVec 3) (addr : BitVec 30) (value : BitVec 64) :
    (s.reply sel addr value).pbuf = s.pbuf := rfl

@[simp] theorem State.reply_pending (s : State) (sel : BitVec 3) (addr : BitVec 30) (value : BitVec 64) :
    (s.reply sel addr value).pending = s.pending := rfl

@[simp] theorem State.reply_replies (s : State) (sel : BitVec 3) (addr : BitVec 30) (value : BitVec 64) :
    (s.reply sel addr value).replies = s.replies ++ [{ wr := 0#1, sel := sel, addr := addr, data := value }] := rfl

@[simp] theorem State.reply_draws (s : State) (sel : BitVec 3) (addr : BitVec 30) (value : BitVec 64) :
    (s.reply sel addr value).draws = s.draws := rfl

/-! ### `State.replyUnspecified` -/

@[simp] theorem State.replyUnspecified_phase (s : State) (sel : BitVec 3) (addr : BitVec 30) :
    (s.replyUnspecified sel addr).phase = s.phase := rfl

@[simp] theorem State.replyUnspecified_mode (s : State) (sel : BitVec 3) (addr : BitVec 30) :
    (s.replyUnspecified sel addr).mode = s.mode := rfl

@[simp] theorem State.replyUnspecified_ptr (s : State) (sel : BitVec 3) (addr : BitVec 30) :
    (s.replyUnspecified sel addr).ptr = s.ptr := rfl

@[simp] theorem State.replyUnspecified_blk (s : State) (sel : BitVec 3) (addr : BitVec 30) :
    (s.replyUnspecified sel addr).blk = s.blk := rfl

@[simp] theorem State.replyUnspecified_t (s : State) (sel : BitVec 3) (addr : BitVec 30) :
    (s.replyUnspecified sel addr).t = s.t := rfl

@[simp] theorem State.replyUnspecified_done (s : State) (sel : BitVec 3) (addr : BitVec 30) :
    (s.replyUnspecified sel addr).done = s.done := rfl

@[simp] theorem State.replyUnspecified_err (s : State) (sel : BitVec 3) (addr : BitVec 30) :
    (s.replyUnspecified sel addr).err = s.err := rfl

@[simp] theorem State.replyUnspecified_msgLen (s : State) (sel : BitVec 3) (addr : BitVec 30) :
    (s.replyUnspecified sel addr).msgLen = s.msgLen := rfl

@[simp] theorem State.replyUnspecified_plen (s : State) (sel : BitVec 3) (addr : BitVec 30) :
    (s.replyUnspecified sel addr).plen = s.plen := rfl

@[simp] theorem State.replyUnspecified_h (s : State) (sel : BitVec 3) (addr : BitVec 30) :
    (s.replyUnspecified sel addr).h = s.h := rfl

@[simp] theorem State.replyUnspecified_v (s : State) (sel : BitVec 3) (addr : BitVec 30) :
    (s.replyUnspecified sel addr).v = s.v := rfl

@[simp] theorem State.replyUnspecified_w (s : State) (sel : BitVec 3) (addr : BitVec 30) :
    (s.replyUnspecified sel addr).w = s.w := rfl

@[simp] theorem State.replyUnspecified_hex (s : State) (sel : BitVec 3) (addr : BitVec 30) :
    (s.replyUnspecified sel addr).hex = s.hex := rfl

@[simp] theorem State.replyUnspecified_msg (s : State) (sel : BitVec 3) (addr : BitVec 30) :
    (s.replyUnspecified sel addr).msg = s.msg := rfl

@[simp] theorem State.replyUnspecified_pbuf (s : State) (sel : BitVec 3) (addr : BitVec 30) :
    (s.replyUnspecified sel addr).pbuf = s.pbuf := rfl

@[simp] theorem State.replyUnspecified_pending (s : State) (sel : BitVec 3) (addr : BitVec 30) :
    (s.replyUnspecified sel addr).pending = s.pending := rfl

@[simp] theorem State.replyUnspecified_replies (s : State) (sel : BitVec 3) (addr : BitVec 30) :
    (s.replyUnspecified sel addr).replies = s.replies ++ [{ wr := 0#1, sel := sel, addr := addr, data := Config.unspecifiedRead s.draws }] := rfl

@[simp] theorem State.replyUnspecified_draws (s : State) (sel : BitVec 3) (addr : BitVec 30) :
    (s.replyUnspecified sel addr).draws = s.draws + 1 := rfl

/-! ### `State.raiseFault` -/

@[simp] theorem State.raiseFault_phase (s : State) (e : ErrCode) :
    (s.raiseFault e).phase = .fault := rfl

@[simp] theorem State.raiseFault_mode (s : State) (e : ErrCode) :
    (s.raiseFault e).mode = s.mode := rfl

@[simp] theorem State.raiseFault_ptr (s : State) (e : ErrCode) :
    (s.raiseFault e).ptr = s.ptr := rfl

@[simp] theorem State.raiseFault_blk (s : State) (e : ErrCode) :
    (s.raiseFault e).blk = s.blk := rfl

@[simp] theorem State.raiseFault_t (s : State) (e : ErrCode) :
    (s.raiseFault e).t = s.t := rfl

@[simp] theorem State.raiseFault_done (s : State) (e : ErrCode) :
    (s.raiseFault e).done = s.done := rfl

@[simp] theorem State.raiseFault_err (s : State) (e : ErrCode) :
    (s.raiseFault e).err = e := rfl

@[simp] theorem State.raiseFault_msgLen (s : State) (e : ErrCode) :
    (s.raiseFault e).msgLen = s.msgLen := rfl

@[simp] theorem State.raiseFault_plen (s : State) (e : ErrCode) :
    (s.raiseFault e).plen = s.plen := rfl

@[simp] theorem State.raiseFault_h (s : State) (e : ErrCode) :
    (s.raiseFault e).h = s.h := rfl

@[simp] theorem State.raiseFault_v (s : State) (e : ErrCode) :
    (s.raiseFault e).v = s.v := rfl

@[simp] theorem State.raiseFault_w (s : State) (e : ErrCode) :
    (s.raiseFault e).w = s.w := rfl

@[simp] theorem State.raiseFault_hex (s : State) (e : ErrCode) :
    (s.raiseFault e).hex = s.hex := rfl

@[simp] theorem State.raiseFault_msg (s : State) (e : ErrCode) :
    (s.raiseFault e).msg = s.msg := rfl

@[simp] theorem State.raiseFault_pbuf (s : State) (e : ErrCode) :
    (s.raiseFault e).pbuf = s.pbuf := rfl

@[simp] theorem State.raiseFault_pending (s : State) (e : ErrCode) :
    (s.raiseFault e).pending = s.pending := rfl

@[simp] theorem State.raiseFault_replies (s : State) (e : ErrCode) :
    (s.raiseFault e).replies = s.replies := rfl

@[simp] theorem State.raiseFault_draws (s : State) (e : ErrCode) :
    (s.raiseFault e).draws = s.draws := rfl

/-! ### `State.resetEvent` -/

@[simp] theorem State.resetEvent_phase (s : State) :
    s.resetEvent.phase = .idle := rfl

@[simp] theorem State.resetEvent_mode (s : State) :
    s.resetEvent.mode = .none := rfl

@[simp] theorem State.resetEvent_ptr (s : State) :
    s.resetEvent.ptr = 0 := rfl

@[simp] theorem State.resetEvent_blk (s : State) :
    s.resetEvent.blk = 0 := rfl

@[simp] theorem State.resetEvent_t (s : State) :
    s.resetEvent.t = 0 := rfl

@[simp] theorem State.resetEvent_done (s : State) :
    s.resetEvent.done = false := rfl

@[simp] theorem State.resetEvent_err (s : State) :
    s.resetEvent.err = .none := rfl

@[simp] theorem State.resetEvent_msgLen (s : State) :
    s.resetEvent.msgLen = 0 := rfl

@[simp] theorem State.resetEvent_plen (s : State) :
    s.resetEvent.plen = 0 := rfl

@[simp] theorem State.resetEvent_h (s : State) :
    s.resetEvent.h = s.h := rfl

@[simp] theorem State.resetEvent_v (s : State) :
    s.resetEvent.v = s.v := rfl

@[simp] theorem State.resetEvent_w (s : State) :
    s.resetEvent.w = s.w := rfl

@[simp] theorem State.resetEvent_hex (s : State) :
    s.resetEvent.hex = s.hex := rfl

@[simp] theorem State.resetEvent_msg (s : State) :
    s.resetEvent.msg = s.msg := rfl

@[simp] theorem State.resetEvent_pbuf (s : State) :
    s.resetEvent.pbuf = s.pbuf := rfl

@[simp] theorem State.resetEvent_pending (s : State) :
    s.resetEvent.pending = s.pending := rfl

@[simp] theorem State.resetEvent_replies (s : State) :
    s.resetEvent.replies = s.replies := rfl

@[simp] theorem State.resetEvent_draws (s : State) :
    s.resetEvent.draws = s.draws := rfl

/-! ### `State.advancePtr` -/

@[simp] theorem State.advancePtr_phase (s : State) (n : Nat) :
    (s.advancePtr n).phase = s.phase := rfl

@[simp] theorem State.advancePtr_mode (s : State) (n : Nat) :
    (s.advancePtr n).mode = s.mode := rfl

@[simp] theorem State.advancePtr_ptr (s : State) (n : Nat) :
    (s.advancePtr n).ptr = BitVec.ofNat 30 (s.ptr.toNat + n) := rfl

@[simp] theorem State.advancePtr_blk (s : State) (n : Nat) :
    (s.advancePtr n).blk = s.blk := rfl

@[simp] theorem State.advancePtr_t (s : State) (n : Nat) :
    (s.advancePtr n).t = s.t := rfl

@[simp] theorem State.advancePtr_done (s : State) (n : Nat) :
    (s.advancePtr n).done = s.done := rfl

@[simp] theorem State.advancePtr_err (s : State) (n : Nat) :
    (s.advancePtr n).err = s.err := rfl

@[simp] theorem State.advancePtr_msgLen (s : State) (n : Nat) :
    (s.advancePtr n).msgLen = s.msgLen := rfl

@[simp] theorem State.advancePtr_plen (s : State) (n : Nat) :
    (s.advancePtr n).plen = s.plen := rfl

@[simp] theorem State.advancePtr_h (s : State) (n : Nat) :
    (s.advancePtr n).h = s.h := rfl

@[simp] theorem State.advancePtr_v (s : State) (n : Nat) :
    (s.advancePtr n).v = s.v := rfl

@[simp] theorem State.advancePtr_w (s : State) (n : Nat) :
    (s.advancePtr n).w = s.w := rfl

@[simp] theorem State.advancePtr_hex (s : State) (n : Nat) :
    (s.advancePtr n).hex = s.hex := rfl

@[simp] theorem State.advancePtr_msg (s : State) (n : Nat) :
    (s.advancePtr n).msg = s.msg := rfl

@[simp] theorem State.advancePtr_pbuf (s : State) (n : Nat) :
    (s.advancePtr n).pbuf = s.pbuf := rfl

@[simp] theorem State.advancePtr_pending (s : State) (n : Nat) :
    (s.advancePtr n).pending = s.pending := rfl

@[simp] theorem State.advancePtr_replies (s : State) (n : Nat) :
    (s.advancePtr n).replies = s.replies := rfl

@[simp] theorem State.advancePtr_draws (s : State) (n : Nat) :
    (s.advancePtr n).draws = s.draws := rfl

/-! ### `State.finish` -/

@[simp] theorem State.finish_phase (s : State) :
    s.finish.phase = .idle := rfl

@[simp] theorem State.finish_mode (s : State) :
    s.finish.mode = s.mode := rfl

@[simp] theorem State.finish_ptr (s : State) :
    s.finish.ptr = s.ptr := rfl

@[simp] theorem State.finish_blk (s : State) :
    s.finish.blk = s.blk := rfl

@[simp] theorem State.finish_t (s : State) :
    s.finish.t = s.t := rfl

@[simp] theorem State.finish_done (s : State) :
    s.finish.done = true := rfl

@[simp] theorem State.finish_err (s : State) :
    s.finish.err = s.err := rfl

@[simp] theorem State.finish_msgLen (s : State) :
    s.finish.msgLen = s.msgLen := rfl

@[simp] theorem State.finish_plen (s : State) :
    s.finish.plen = s.plen := rfl

@[simp] theorem State.finish_h (s : State) :
    s.finish.h = s.h := rfl

@[simp] theorem State.finish_v (s : State) :
    s.finish.v = s.v := rfl

@[simp] theorem State.finish_w (s : State) :
    s.finish.w = s.w := rfl

@[simp] theorem State.finish_hex (s : State) :
    s.finish.hex = s.hex := rfl

@[simp] theorem State.finish_msg (s : State) :
    s.finish.msg = s.msg := rfl

@[simp] theorem State.finish_pbuf (s : State) :
    s.finish.pbuf = s.pbuf := rfl

@[simp] theorem State.finish_pending (s : State) :
    s.finish.pending = s.pending := rfl

@[simp] theorem State.finish_replies (s : State) :
    s.finish.replies = s.replies := rfl

@[simp] theorem State.finish_draws (s : State) :
    s.finish.draws = s.draws := rfl

/-! ### `State.accept` -/

@[simp] theorem State.accept_phase (s : State) (m : Mode) (p : Phase) :
    (s.accept m p).phase = p := rfl

@[simp] theorem State.accept_mode (s : State) (m : Mode) (p : Phase) :
    (s.accept m p).mode = m := rfl

@[simp] theorem State.accept_ptr (s : State) (m : Mode) (p : Phase) :
    (s.accept m p).ptr = 0 := rfl

@[simp] theorem State.accept_blk (s : State) (m : Mode) (p : Phase) :
    (s.accept m p).blk = 0 := rfl

@[simp] theorem State.accept_t (s : State) (m : Mode) (p : Phase) :
    (s.accept m p).t = 0 := rfl

@[simp] theorem State.accept_done (s : State) (m : Mode) (p : Phase) :
    (s.accept m p).done = false := rfl

@[simp] theorem State.accept_err (s : State) (m : Mode) (p : Phase) :
    (s.accept m p).err = s.err := rfl

@[simp] theorem State.accept_msgLen (s : State) (m : Mode) (p : Phase) :
    (s.accept m p).msgLen = s.msgLen := rfl

@[simp] theorem State.accept_plen (s : State) (m : Mode) (p : Phase) :
    (s.accept m p).plen = s.plen := rfl

@[simp] theorem State.accept_h (s : State) (m : Mode) (p : Phase) :
    (s.accept m p).h = s.h := rfl

@[simp] theorem State.accept_v (s : State) (m : Mode) (p : Phase) :
    (s.accept m p).v = s.v := rfl

@[simp] theorem State.accept_w (s : State) (m : Mode) (p : Phase) :
    (s.accept m p).w = s.w := rfl

@[simp] theorem State.accept_hex (s : State) (m : Mode) (p : Phase) :
    (s.accept m p).hex = s.hex := rfl

@[simp] theorem State.accept_msg (s : State) (m : Mode) (p : Phase) :
    (s.accept m p).msg = s.msg := rfl

@[simp] theorem State.accept_pbuf (s : State) (m : Mode) (p : Phase) :
    (s.accept m p).pbuf = s.pbuf := rfl

@[simp] theorem State.accept_pending (s : State) (m : Mode) (p : Phase) :
    (s.accept m p).pending = s.pending := rfl

@[simp] theorem State.accept_replies (s : State) (m : Mode) (p : Phase) :
    (s.accept m p).replies = s.replies := rfl

@[simp] theorem State.accept_draws (s : State) (m : Mode) (p : Phase) :
    (s.accept m p).draws = s.draws := rfl

/-! ### `State.setW` -/

@[simp] theorem State.setW_phase (s : State) (x : Word) :
    (s.setW x).phase = s.phase := rfl

@[simp] theorem State.setW_mode (s : State) (x : Word) :
    (s.setW x).mode = s.mode := rfl

@[simp] theorem State.setW_ptr (s : State) (x : Word) :
    (s.setW x).ptr = s.ptr := rfl

@[simp] theorem State.setW_blk (s : State) (x : Word) :
    (s.setW x).blk = s.blk := rfl

@[simp] theorem State.setW_t (s : State) (x : Word) :
    (s.setW x).t = s.t := rfl

@[simp] theorem State.setW_done (s : State) (x : Word) :
    (s.setW x).done = s.done := rfl

@[simp] theorem State.setW_err (s : State) (x : Word) :
    (s.setW x).err = s.err := rfl

@[simp] theorem State.setW_msgLen (s : State) (x : Word) :
    (s.setW x).msgLen = s.msgLen := rfl

@[simp] theorem State.setW_plen (s : State) (x : Word) :
    (s.setW x).plen = s.plen := rfl

@[simp] theorem State.setW_h (s : State) (x : Word) :
    (s.setW x).h = s.h := rfl

@[simp] theorem State.setW_v (s : State) (x : Word) :
    (s.setW x).v = s.v := rfl

@[simp] theorem State.setW_w (s : State) (x : Word) :
    (s.setW x).w = s.w.set s.t.toNat x s.t.isLt := rfl

@[simp] theorem State.setW_hex (s : State) (x : Word) :
    (s.setW x).hex = s.hex := rfl

@[simp] theorem State.setW_msg (s : State) (x : Word) :
    (s.setW x).msg = s.msg := rfl

@[simp] theorem State.setW_pbuf (s : State) (x : Word) :
    (s.setW x).pbuf = s.pbuf := rfl

@[simp] theorem State.setW_pending (s : State) (x : Word) :
    (s.setW x).pending = s.pending := rfl

@[simp] theorem State.setW_replies (s : State) (x : Word) :
    (s.setW x).replies = s.replies := rfl

@[simp] theorem State.setW_draws (s : State) (x : Word) :
    (s.setW x).draws = s.draws := rfl

/-! ### `State.writeByte` and `State.writeBytes`: the fields that are no memory -/

@[simp] theorem State.writeByte_phase (s : State) (sp : Space) (a : Nat) (b : Byte) :
    (s.writeByte sp a b).phase = s.phase := by
  cases sp <;> rfl

@[simp] theorem State.writeByte_mode (s : State) (sp : Space) (a : Nat) (b : Byte) :
    (s.writeByte sp a b).mode = s.mode := by
  cases sp <;> rfl

@[simp] theorem State.writeByte_ptr (s : State) (sp : Space) (a : Nat) (b : Byte) :
    (s.writeByte sp a b).ptr = s.ptr := by
  cases sp <;> rfl

@[simp] theorem State.writeByte_blk (s : State) (sp : Space) (a : Nat) (b : Byte) :
    (s.writeByte sp a b).blk = s.blk := by
  cases sp <;> rfl

@[simp] theorem State.writeByte_t (s : State) (sp : Space) (a : Nat) (b : Byte) :
    (s.writeByte sp a b).t = s.t := by
  cases sp <;> rfl

@[simp] theorem State.writeByte_done (s : State) (sp : Space) (a : Nat) (b : Byte) :
    (s.writeByte sp a b).done = s.done := by
  cases sp <;> rfl

@[simp] theorem State.writeByte_err (s : State) (sp : Space) (a : Nat) (b : Byte) :
    (s.writeByte sp a b).err = s.err := by
  cases sp <;> rfl

@[simp] theorem State.writeByte_msgLen (s : State) (sp : Space) (a : Nat) (b : Byte) :
    (s.writeByte sp a b).msgLen = s.msgLen := by
  cases sp <;> rfl

@[simp] theorem State.writeByte_plen (s : State) (sp : Space) (a : Nat) (b : Byte) :
    (s.writeByte sp a b).plen = s.plen := by
  cases sp <;> rfl

@[simp] theorem State.writeByte_h (s : State) (sp : Space) (a : Nat) (b : Byte) :
    (s.writeByte sp a b).h = s.h := by
  cases sp <;> rfl

@[simp] theorem State.writeByte_v (s : State) (sp : Space) (a : Nat) (b : Byte) :
    (s.writeByte sp a b).v = s.v := by
  cases sp <;> rfl

@[simp] theorem State.writeByte_w (s : State) (sp : Space) (a : Nat) (b : Byte) :
    (s.writeByte sp a b).w = s.w := by
  cases sp <;> rfl

@[simp] theorem State.writeByte_pending (s : State) (sp : Space) (a : Nat) (b : Byte) :
    (s.writeByte sp a b).pending = s.pending := by
  cases sp <;> rfl

@[simp] theorem State.writeByte_replies (s : State) (sp : Space) (a : Nat) (b : Byte) :
    (s.writeByte sp a b).replies = s.replies := by
  cases sp <;> rfl

@[simp] theorem State.writeByte_draws (s : State) (sp : Space) (a : Nat) (b : Byte) :
    (s.writeByte sp a b).draws = s.draws := by
  cases sp <;> rfl

@[simp] theorem State.writeBytes_phase (s : State) (sp : Space) (a : Nat) (bs : List Byte) :
    (s.writeBytes sp a bs).phase = s.phase := by
  induction bs generalizing s a with
  | nil => rfl
  | cons b bs ih => simp [State.writeBytes, ih]

@[simp] theorem State.writeBytes_mode (s : State) (sp : Space) (a : Nat) (bs : List Byte) :
    (s.writeBytes sp a bs).mode = s.mode := by
  induction bs generalizing s a with
  | nil => rfl
  | cons b bs ih => simp [State.writeBytes, ih]

@[simp] theorem State.writeBytes_ptr (s : State) (sp : Space) (a : Nat) (bs : List Byte) :
    (s.writeBytes sp a bs).ptr = s.ptr := by
  induction bs generalizing s a with
  | nil => rfl
  | cons b bs ih => simp [State.writeBytes, ih]

@[simp] theorem State.writeBytes_blk (s : State) (sp : Space) (a : Nat) (bs : List Byte) :
    (s.writeBytes sp a bs).blk = s.blk := by
  induction bs generalizing s a with
  | nil => rfl
  | cons b bs ih => simp [State.writeBytes, ih]

@[simp] theorem State.writeBytes_t (s : State) (sp : Space) (a : Nat) (bs : List Byte) :
    (s.writeBytes sp a bs).t = s.t := by
  induction bs generalizing s a with
  | nil => rfl
  | cons b bs ih => simp [State.writeBytes, ih]

@[simp] theorem State.writeBytes_done (s : State) (sp : Space) (a : Nat) (bs : List Byte) :
    (s.writeBytes sp a bs).done = s.done := by
  induction bs generalizing s a with
  | nil => rfl
  | cons b bs ih => simp [State.writeBytes, ih]

@[simp] theorem State.writeBytes_err (s : State) (sp : Space) (a : Nat) (bs : List Byte) :
    (s.writeBytes sp a bs).err = s.err := by
  induction bs generalizing s a with
  | nil => rfl
  | cons b bs ih => simp [State.writeBytes, ih]

@[simp] theorem State.writeBytes_msgLen (s : State) (sp : Space) (a : Nat) (bs : List Byte) :
    (s.writeBytes sp a bs).msgLen = s.msgLen := by
  induction bs generalizing s a with
  | nil => rfl
  | cons b bs ih => simp [State.writeBytes, ih]

@[simp] theorem State.writeBytes_plen (s : State) (sp : Space) (a : Nat) (bs : List Byte) :
    (s.writeBytes sp a bs).plen = s.plen := by
  induction bs generalizing s a with
  | nil => rfl
  | cons b bs ih => simp [State.writeBytes, ih]

@[simp] theorem State.writeBytes_h (s : State) (sp : Space) (a : Nat) (bs : List Byte) :
    (s.writeBytes sp a bs).h = s.h := by
  induction bs generalizing s a with
  | nil => rfl
  | cons b bs ih => simp [State.writeBytes, ih]

@[simp] theorem State.writeBytes_v (s : State) (sp : Space) (a : Nat) (bs : List Byte) :
    (s.writeBytes sp a bs).v = s.v := by
  induction bs generalizing s a with
  | nil => rfl
  | cons b bs ih => simp [State.writeBytes, ih]

@[simp] theorem State.writeBytes_w (s : State) (sp : Space) (a : Nat) (bs : List Byte) :
    (s.writeBytes sp a bs).w = s.w := by
  induction bs generalizing s a with
  | nil => rfl
  | cons b bs ih => simp [State.writeBytes, ih]

@[simp] theorem State.writeBytes_pending (s : State) (sp : Space) (a : Nat) (bs : List Byte) :
    (s.writeBytes sp a bs).pending = s.pending := by
  induction bs generalizing s a with
  | nil => rfl
  | cons b bs ih => simp [State.writeBytes, ih]

@[simp] theorem State.writeBytes_replies (s : State) (sp : Space) (a : Nat) (bs : List Byte) :
    (s.writeBytes sp a bs).replies = s.replies := by
  induction bs generalizing s a with
  | nil => rfl
  | cons b bs ih => simp [State.writeBytes, ih]

@[simp] theorem State.writeBytes_draws (s : State) (sp : Space) (a : Nat) (bs : List Byte) :
    (s.writeBytes sp a bs).draws = s.draws := by
  induction bs generalizing s a with
  | nil => rfl
  | cons b bs ih => simp [State.writeBytes, ih]

/-! ### `State.writeByte` and `State.writeBytes`: the memories -/

@[simp] theorem State.writeByte_msg_msg (s : State) (a : Nat) (b : Byte) :
    (s.writeByte .msg a b).msg = Memory.write s.msg a b := rfl

@[simp] theorem State.writeByte_msg_pbuf (s : State) (a : Nat) (b : Byte) :
    (s.writeByte .msg a b).pbuf = s.pbuf := rfl

@[simp] theorem State.writeBytes_msg_pbuf (s : State) (a : Nat) (bs : List Byte) :
    (s.writeBytes .msg a bs).pbuf = s.pbuf := by
  induction bs generalizing s a with
  | nil => rfl
  | cons b bs ih => simp [State.writeBytes, ih]

@[simp] theorem State.writeByte_msg_hex (s : State) (a : Nat) (b : Byte) :
    (s.writeByte .msg a b).hex = s.hex := rfl

@[simp] theorem State.writeBytes_msg_hex (s : State) (a : Nat) (bs : List Byte) :
    (s.writeBytes .msg a bs).hex = s.hex := by
  induction bs generalizing s a with
  | nil => rfl
  | cons b bs ih => simp [State.writeBytes, ih]

@[simp] theorem State.writeByte_pbuf_pbuf (s : State) (a : Nat) (b : Byte) :
    (s.writeByte .pbuf a b).pbuf = Memory.write s.pbuf a b := rfl

@[simp] theorem State.writeByte_pbuf_msg (s : State) (a : Nat) (b : Byte) :
    (s.writeByte .pbuf a b).msg = s.msg := rfl

@[simp] theorem State.writeBytes_pbuf_msg (s : State) (a : Nat) (bs : List Byte) :
    (s.writeBytes .pbuf a bs).msg = s.msg := by
  induction bs generalizing s a with
  | nil => rfl
  | cons b bs ih => simp [State.writeBytes, ih]

@[simp] theorem State.writeByte_pbuf_hex (s : State) (a : Nat) (b : Byte) :
    (s.writeByte .pbuf a b).hex = s.hex := rfl

@[simp] theorem State.writeBytes_pbuf_hex (s : State) (a : Nat) (bs : List Byte) :
    (s.writeBytes .pbuf a bs).hex = s.hex := by
  induction bs generalizing s a with
  | nil => rfl
  | cons b bs ih => simp [State.writeBytes, ih]

@[simp] theorem State.writeByte_hex_hex (s : State) (a : Nat) (b : Byte) :
    (s.writeByte .hex a b).hex = Memory.write s.hex a b := rfl

@[simp] theorem State.writeByte_hex_msg (s : State) (a : Nat) (b : Byte) :
    (s.writeByte .hex a b).msg = s.msg := rfl

@[simp] theorem State.writeBytes_hex_msg (s : State) (a : Nat) (bs : List Byte) :
    (s.writeBytes .hex a bs).msg = s.msg := by
  induction bs generalizing s a with
  | nil => rfl
  | cons b bs ih => simp [State.writeBytes, ih]

@[simp] theorem State.writeByte_hex_pbuf (s : State) (a : Nat) (b : Byte) :
    (s.writeByte .hex a b).pbuf = s.pbuf := rfl

@[simp] theorem State.writeBytes_hex_pbuf (s : State) (a : Nat) (bs : List Byte) :
    (s.writeBytes .hex a bs).pbuf = s.pbuf := by
  induction bs generalizing s a with
  | nil => rfl
  | cons b bs ih => simp [State.writeBytes, ih]

/-! ### The composed updates of the micro-operations -/

/-! ### `State.appendPadByte` -/

@[simp] theorem State.appendPadByte_phase (s : State) (b : Byte) :
    (s.appendPadByte b).phase = s.afterPadByte := rfl

@[simp] theorem State.appendPadByte_mode (s : State) (b : Byte) :
    (s.appendPadByte b).mode = s.mode := rfl

@[simp] theorem State.appendPadByte_ptr (s : State) (b : Byte) :
    (s.appendPadByte b).ptr = BitVec.ofNat 30 (s.ptr.toNat + 1) := rfl

@[simp] theorem State.appendPadByte_blk (s : State) (b : Byte) :
    (s.appendPadByte b).blk = s.blk := rfl

@[simp] theorem State.appendPadByte_t (s : State) (b : Byte) :
    (s.appendPadByte b).t = s.t := rfl

@[simp] theorem State.appendPadByte_done (s : State) (b : Byte) :
    (s.appendPadByte b).done = s.done := rfl

@[simp] theorem State.appendPadByte_err (s : State) (b : Byte) :
    (s.appendPadByte b).err = s.err := rfl

@[simp] theorem State.appendPadByte_msgLen (s : State) (b : Byte) :
    (s.appendPadByte b).msgLen = s.msgLen := rfl

@[simp] theorem State.appendPadByte_plen (s : State) (b : Byte) :
    (s.appendPadByte b).plen = s.plen := rfl

@[simp] theorem State.appendPadByte_h (s : State) (b : Byte) :
    (s.appendPadByte b).h = s.h := rfl

@[simp] theorem State.appendPadByte_v (s : State) (b : Byte) :
    (s.appendPadByte b).v = s.v := rfl

@[simp] theorem State.appendPadByte_w (s : State) (b : Byte) :
    (s.appendPadByte b).w = s.w := rfl

@[simp] theorem State.appendPadByte_hex (s : State) (b : Byte) :
    (s.appendPadByte b).hex = s.hex := rfl

@[simp] theorem State.appendPadByte_msg (s : State) (b : Byte) :
    (s.appendPadByte b).msg = s.msg := rfl

@[simp] theorem State.appendPadByte_pbuf (s : State) (b : Byte) :
    (s.appendPadByte b).pbuf = Memory.write s.pbuf s.ptr.toNat b := rfl

@[simp] theorem State.appendPadByte_pending (s : State) (b : Byte) :
    (s.appendPadByte b).pending = s.pending := rfl

@[simp] theorem State.appendPadByte_replies (s : State) (b : Byte) :
    (s.appendPadByte b).replies = s.replies := rfl

@[simp] theorem State.appendPadByte_draws (s : State) (b : Byte) :
    (s.appendPadByte b).draws = s.draws := rfl

/-! ### `State.appendLength` -/

@[simp] theorem State.appendLength_phase (s : State) :
    s.appendLength.phase = s.phase := by
  simp [State.appendLength, State.memWrite]

@[simp] theorem State.appendLength_mode (s : State) :
    s.appendLength.mode = s.mode := by
  simp [State.appendLength, State.memWrite]

@[simp] theorem State.appendLength_ptr (s : State) :
    s.appendLength.ptr = BitVec.ofNat 30 (s.ptr.toNat + 8) := by
  simp [State.appendLength, State.memWrite]

@[simp] theorem State.appendLength_blk (s : State) :
    s.appendLength.blk = s.blk := by
  simp [State.appendLength, State.memWrite]

@[simp] theorem State.appendLength_t (s : State) :
    s.appendLength.t = s.t := by
  simp [State.appendLength, State.memWrite]

@[simp] theorem State.appendLength_done (s : State) :
    s.appendLength.done = s.done := by
  simp [State.appendLength, State.memWrite]

@[simp] theorem State.appendLength_err (s : State) :
    s.appendLength.err = s.err := by
  simp [State.appendLength, State.memWrite]

@[simp] theorem State.appendLength_msgLen (s : State) :
    s.appendLength.msgLen = s.msgLen := by
  simp [State.appendLength, State.memWrite]

@[simp] theorem State.appendLength_plen (s : State) :
    s.appendLength.plen = BitVec.ofNat 30 (s.ptr.toNat + 8) := by
  simp [State.appendLength, State.memWrite]

@[simp] theorem State.appendLength_h (s : State) :
    s.appendLength.h = s.h := by
  simp [State.appendLength, State.memWrite]

@[simp] theorem State.appendLength_v (s : State) :
    s.appendLength.v = s.v := by
  simp [State.appendLength, State.memWrite]

@[simp] theorem State.appendLength_w (s : State) :
    s.appendLength.w = s.w := by
  simp [State.appendLength, State.memWrite]

@[simp] theorem State.appendLength_hex (s : State) :
    s.appendLength.hex = s.hex := by
  simp [State.appendLength, State.memWrite]

@[simp] theorem State.appendLength_msg (s : State) :
    s.appendLength.msg = s.msg := by
  simp [State.appendLength, State.memWrite]

@[simp] theorem State.appendLength_pbuf (s : State) :
    s.appendLength.pbuf = (s.memWrite .pbuf s.ptr.toNat 8 (bitLength s.msgLen.toNat).toNat).pbuf := by
  simp [State.appendLength, State.memWrite]

@[simp] theorem State.appendLength_pending (s : State) :
    s.appendLength.pending = s.pending := by
  simp [State.appendLength, State.memWrite]

@[simp] theorem State.appendLength_replies (s : State) :
    s.appendLength.replies = s.replies := by
  simp [State.appendLength, State.memWrite]

@[simp] theorem State.appendLength_draws (s : State) :
    s.appendLength.draws = s.draws := by
  simp [State.appendLength, State.memWrite]

/-! ### `State.roundApplied` -/

@[simp] theorem State.roundApplied_phase (s : State) :
    s.roundApplied.phase = s.phase := rfl

@[simp] theorem State.roundApplied_mode (s : State) :
    s.roundApplied.mode = s.mode := rfl

@[simp] theorem State.roundApplied_ptr (s : State) :
    s.roundApplied.ptr = s.ptr := rfl

@[simp] theorem State.roundApplied_blk (s : State) :
    s.roundApplied.blk = s.blk := rfl

@[simp] theorem State.roundApplied_t (s : State) :
    s.roundApplied.t = s.t := rfl

@[simp] theorem State.roundApplied_done (s : State) :
    s.roundApplied.done = s.done := rfl

@[simp] theorem State.roundApplied_err (s : State) :
    s.roundApplied.err = s.err := rfl

@[simp] theorem State.roundApplied_msgLen (s : State) :
    s.roundApplied.msgLen = s.msgLen := rfl

@[simp] theorem State.roundApplied_plen (s : State) :
    s.roundApplied.plen = s.plen := rfl

@[simp] theorem State.roundApplied_h (s : State) :
    s.roundApplied.h = s.h := rfl

@[simp] theorem State.roundApplied_v (s : State) :
    s.roundApplied.v = oneRound s.v s.roundConstant s.scheduleWord := rfl

@[simp] theorem State.roundApplied_w (s : State) :
    s.roundApplied.w = s.w := rfl

@[simp] theorem State.roundApplied_hex (s : State) :
    s.roundApplied.hex = s.hex := rfl

@[simp] theorem State.roundApplied_msg (s : State) :
    s.roundApplied.msg = s.msg := rfl

@[simp] theorem State.roundApplied_pbuf (s : State) :
    s.roundApplied.pbuf = s.pbuf := rfl

@[simp] theorem State.roundApplied_pending (s : State) :
    s.roundApplied.pending = s.pending := rfl

@[simp] theorem State.roundApplied_replies (s : State) :
    s.roundApplied.replies = s.replies := rfl

@[simp] theorem State.roundApplied_draws (s : State) :
    s.roundApplied.draws = s.draws := rfl

/-! ### `State.blockAdded` -/

@[simp] theorem State.blockAdded_phase (s : State) :
    s.blockAdded.phase = s.phase := rfl

@[simp] theorem State.blockAdded_mode (s : State) :
    s.blockAdded.mode = s.mode := rfl

@[simp] theorem State.blockAdded_ptr (s : State) :
    s.blockAdded.ptr = s.ptr := rfl

@[simp] theorem State.blockAdded_blk (s : State) :
    s.blockAdded.blk = s.blk + 1 := rfl

@[simp] theorem State.blockAdded_t (s : State) :
    s.blockAdded.t = 0 := rfl

@[simp] theorem State.blockAdded_done (s : State) :
    s.blockAdded.done = s.done := rfl

@[simp] theorem State.blockAdded_err (s : State) :
    s.blockAdded.err = s.err := rfl

@[simp] theorem State.blockAdded_msgLen (s : State) :
    s.blockAdded.msgLen = s.msgLen := rfl

@[simp] theorem State.blockAdded_plen (s : State) :
    s.blockAdded.plen = s.plen := rfl

@[simp] theorem State.blockAdded_h (s : State) :
    s.blockAdded.h = addWords s.h s.v := rfl

@[simp] theorem State.blockAdded_v (s : State) :
    s.blockAdded.v = s.v := rfl

@[simp] theorem State.blockAdded_w (s : State) :
    s.blockAdded.w = s.w := rfl

@[simp] theorem State.blockAdded_hex (s : State) :
    s.blockAdded.hex = s.hex := rfl

@[simp] theorem State.blockAdded_msg (s : State) :
    s.blockAdded.msg = s.msg := rfl

@[simp] theorem State.blockAdded_pbuf (s : State) :
    s.blockAdded.pbuf = s.pbuf := rfl

@[simp] theorem State.blockAdded_pending (s : State) :
    s.blockAdded.pending = s.pending := rfl

@[simp] theorem State.blockAdded_replies (s : State) :
    s.blockAdded.replies = s.replies := rfl

@[simp] theorem State.blockAdded_draws (s : State) :
    s.blockAdded.draws = s.draws := rfl

/-! ### `State.endCompression` -/

@[simp] theorem State.endCompression_phase (s : State) :
    s.endCompression.phase = if s.mode = .hash then .hexEnc else .idle := by
  unfold State.endCompression
  split <;> rfl

@[simp] theorem State.endCompression_mode (s : State) :
    s.endCompression.mode = s.mode := by
  unfold State.endCompression
  split <;> rfl

@[simp] theorem State.endCompression_ptr (s : State) :
    s.endCompression.ptr = s.ptr := by
  unfold State.endCompression
  split <;> rfl

@[simp] theorem State.endCompression_blk (s : State) :
    s.endCompression.blk = s.blk := by
  unfold State.endCompression
  split <;> rfl

@[simp] theorem State.endCompression_t (s : State) :
    s.endCompression.t = s.t := by
  unfold State.endCompression
  split <;> rfl

@[simp] theorem State.endCompression_done (s : State) :
    s.endCompression.done = if s.mode = .hash then s.done else true := by
  unfold State.endCompression
  split <;> rfl

@[simp] theorem State.endCompression_err (s : State) :
    s.endCompression.err = s.err := by
  unfold State.endCompression
  split <;> rfl

@[simp] theorem State.endCompression_msgLen (s : State) :
    s.endCompression.msgLen = s.msgLen := by
  unfold State.endCompression
  split <;> rfl

@[simp] theorem State.endCompression_plen (s : State) :
    s.endCompression.plen = s.plen := by
  unfold State.endCompression
  split <;> rfl

@[simp] theorem State.endCompression_h (s : State) :
    s.endCompression.h = s.h := by
  unfold State.endCompression
  split <;> rfl

@[simp] theorem State.endCompression_v (s : State) :
    s.endCompression.v = s.v := by
  unfold State.endCompression
  split <;> rfl

@[simp] theorem State.endCompression_w (s : State) :
    s.endCompression.w = s.w := by
  unfold State.endCompression
  split <;> rfl

@[simp] theorem State.endCompression_hex (s : State) :
    s.endCompression.hex = s.hex := by
  unfold State.endCompression
  split <;> rfl

@[simp] theorem State.endCompression_msg (s : State) :
    s.endCompression.msg = s.msg := by
  unfold State.endCompression
  split <;> rfl

@[simp] theorem State.endCompression_pbuf (s : State) :
    s.endCompression.pbuf = s.pbuf := by
  unfold State.endCompression
  split <;> rfl

@[simp] theorem State.endCompression_pending (s : State) :
    s.endCompression.pending = s.pending := by
  unfold State.endCompression
  split <;> rfl

@[simp] theorem State.endCompression_replies (s : State) :
    s.endCompression.replies = s.replies := by
  unfold State.endCompression
  split <;> rfl

@[simp] theorem State.endCompression_draws (s : State) :
    s.endCompression.draws = s.draws := by
  unfold State.endCompression
  split <;> rfl

/-! ### `State.wordEncoded` -/

@[simp] theorem State.wordEncoded_phase (s : State) :
    s.wordEncoded.phase = s.phase := by
  simp [State.wordEncoded]

@[simp] theorem State.wordEncoded_mode (s : State) :
    s.wordEncoded.mode = s.mode := by
  simp [State.wordEncoded]

@[simp] theorem State.wordEncoded_ptr (s : State) :
    s.wordEncoded.ptr = s.ptr := by
  simp [State.wordEncoded]

@[simp] theorem State.wordEncoded_blk (s : State) :
    s.wordEncoded.blk = s.blk := by
  simp [State.wordEncoded]

@[simp] theorem State.wordEncoded_t (s : State) :
    s.wordEncoded.t = s.t := by
  simp [State.wordEncoded]

@[simp] theorem State.wordEncoded_done (s : State) :
    s.wordEncoded.done = s.done := by
  simp [State.wordEncoded]

@[simp] theorem State.wordEncoded_err (s : State) :
    s.wordEncoded.err = s.err := by
  simp [State.wordEncoded]

@[simp] theorem State.wordEncoded_msgLen (s : State) :
    s.wordEncoded.msgLen = s.msgLen := by
  simp [State.wordEncoded]

@[simp] theorem State.wordEncoded_plen (s : State) :
    s.wordEncoded.plen = s.plen := by
  simp [State.wordEncoded]

@[simp] theorem State.wordEncoded_h (s : State) :
    s.wordEncoded.h = s.h := by
  simp [State.wordEncoded]

@[simp] theorem State.wordEncoded_v (s : State) :
    s.wordEncoded.v = s.v := by
  simp [State.wordEncoded]

@[simp] theorem State.wordEncoded_w (s : State) :
    s.wordEncoded.w = s.w := by
  simp [State.wordEncoded]

@[simp] theorem State.wordEncoded_hex (s : State) :
    s.wordEncoded.hex = (s.writeBytes .hex (8 * s.t.toNat) (hex8 (s.hAt s.t.toNat))).hex := rfl

@[simp] theorem State.wordEncoded_msg (s : State) :
    s.wordEncoded.msg = s.msg := by
  simp [State.wordEncoded]

@[simp] theorem State.wordEncoded_pbuf (s : State) :
    s.wordEncoded.pbuf = s.pbuf := by
  simp [State.wordEncoded]

@[simp] theorem State.wordEncoded_pending (s : State) :
    s.wordEncoded.pending = s.pending := by
  simp [State.wordEncoded]

@[simp] theorem State.wordEncoded_replies (s : State) :
    s.wordEncoded.replies = s.replies := by
  simp [State.wordEncoded]

@[simp] theorem State.wordEncoded_draws (s : State) :
    s.wordEncoded.draws = s.draws := by
  simp [State.wordEncoded]

end Sys2Proof.Machine
end

