-- ==== Sys2Proof/Laws/Memory.lean ====
section
/-! SUPPORT. The memory operations: a read after a write, every other byte unchanged, the canonical form kept, and the big-endian
bytes of a number. -/

namespace Sys2Proof.Machine

/-! ## One memory -/

/-- A write is read back at its own address and changes no other. -/
theorem Memory.read_write (m : Memory) (a : Nat) (v : Byte) (x : Nat) :
    Memory.read (Memory.write m a v) x = if x = a then some v else Memory.read m x := by
  induction m with
  | nil => rfl
  | cons cell m ih =>
    obtain ⟨y, b⟩ := cell
    simp only [Memory.write]
    split
    · simp only [Memory.read]
    · split
      · subst_vars
        simp only [Memory.read]
        split <;> rfl
      · simp only [Memory.read, ih]
        split
        · subst_vars
          split
          · omega
          · rfl
        · rfl

theorem Memory.risingFrom_write (m : Memory) (low a : Nat) (v : Byte) (hlow : low ≤ a) (h : Memory.risingFrom low m = true) :
    Memory.risingFrom low (Memory.write m a v) = true := by
  induction m generalizing low with
  | nil => simpa [Memory.write, Memory.risingFrom] using hlow
  | cons cell m ih =>
    obtain ⟨y, b⟩ := cell
    simp only [Memory.risingFrom, Bool.and_eq_true, decide_eq_true_eq] at h
    simp only [Memory.write]
    split
    · simp only [Memory.risingFrom, Bool.and_eq_true, decide_eq_true_eq]
      exact ⟨hlow, by omega, h.2⟩
    · split
      · subst_vars
        simpa [Memory.risingFrom] using h
      · simp only [Memory.risingFrom, Bool.and_eq_true, decide_eq_true_eq]
        exact ⟨h.1, ih (y + 1) (by omega) h.2⟩

/-- What a write lists is the new cell and cells that were listed before. -/
theorem Memory.mem_write {m : Memory} {a : Nat} {v : Byte} {cell : Host.Cell} (h : cell ∈ Memory.write m a v) :
    cell = (a, v) ∨ cell ∈ m := by
  induction m with
  | nil => exact Or.inl (by simpa [Memory.write] using h)
  | cons c m ih =>
    obtain ⟨y, b⟩ := c
    simp only [Memory.write] at h
    split at h
    · simpa using h
    · split at h
      · subst_vars
        rcases List.mem_cons.1 h with h | h
        · exact Or.inl h
        · exact Or.inr (List.mem_cons_of_mem _ h)
      · rcases List.mem_cons.1 h with h | h
        · exact Or.inr (by simp [h])
        · exact (ih h).imp_right (List.mem_cons_of_mem _)

/-- A write inside the space keeps the canonical form. -/
theorem Memory.wf_write {sp : Space} {m : Memory} {a : Nat} (v : Byte) (ha : a < Config.spaceSize sp)
    (h : Memory.wf sp m = true) : Memory.wf sp (Memory.write m a v) = true := by
  simp only [Memory.wf, Bool.and_eq_true, List.all_eq_true, decide_eq_true_eq] at h ⊢
  refine ⟨Memory.risingFrom_write m 0 a v (Nat.zero_le a) h.1, fun cell hc => ?_⟩
  rcases Memory.mem_write hc with hc | hc
  · simpa [hc] using ha
  · exact h.2 cell hc

/-! ## The spaces of a state -/

/-- A byte written is read back at its own address of its own space, and every other byte reads as before. -/
theorem State.readByte_writeByte (s : State) (sp sp' : Space) (a x : Nat) (b : Byte) :
    (s.writeByte sp a b).readByte sp' x = if sp' = sp ∧ x = a then b else s.readByte sp' x := by
  cases sp <;> cases sp' <;> simp [State.readByte, State.memory, Memory.read_write] <;> split <;> simp_all

/-- A byte string written is read back, and every other byte reads as before. -/
theorem State.readByte_writeBytes (s : State) (sp sp' : Space) (a x : Nat) (bs : List Byte) :
    (s.writeBytes sp a bs).readByte sp' x =
      if sp' = sp ∧ a ≤ x ∧ x < a + bs.length then bs.getD (x - a) 0 else s.readByte sp' x := by
  induction bs generalizing s a with
  | nil =>
    simp [State.writeBytes]
  | cons b bs ih =>
    simp only [State.writeBytes, ih, State.readByte_writeByte, List.length_cons]
    by_cases hs : sp' = sp
    · by_cases hx : x = a
      · subst hx
        simp [hs]
      · by_cases h1 : a + 1 ≤ x ∧ x < a + 1 + bs.length
        · have h2 : a ≤ x ∧ x < a + (bs.length + 1) := by omega
          have h3 : x - a = (x - (a + 1)) + 1 := by omega
          rw [if_pos ⟨hs, h1⟩, if_pos ⟨hs, h2⟩, h3, List.getD_cons_succ]
        · have h2 : ¬ (a ≤ x ∧ x < a + (bs.length + 1)) := by omega
          rw [if_neg (fun h => h1 h.2), if_neg (fun h => hx h.2), if_neg (fun h => h2 h.2)]
    · simp [hs]

/-- A byte string written inside a space keeps that space's canonical form. -/
theorem State.wf_writeBytes (s : State) (sp : Space) (a : Nat) (bs : List Byte) (ha : a + bs.length ≤ Config.spaceSize sp)
    (h : Memory.wf sp (s.memory sp) = true) : Memory.wf sp ((s.writeBytes sp a bs).memory sp) = true := by
  induction bs generalizing s a with
  | nil => exact h
  | cons b bs ih =>
    simp only [List.length_cons] at ha
    refine ih _ (a + 1) (by omega) ?_
    cases sp <;> exact Memory.wf_write b (by omega) h

/-- What a byte string written to HEX lists is its own bytes and bytes that were listed before. -/
theorem State.mem_hex_writeBytes {s : State} {a : Nat} {bs : List Byte} {cell : Host.Cell}
    (h : cell ∈ (s.writeBytes .hex a bs).hex) : cell.2 ∈ bs ∨ cell ∈ s.hex := by
  induction bs generalizing s a with
  | nil => exact Or.inr h
  | cons b bs ih =>
    rcases ih h with h | h
    · exact Or.inl (List.mem_cons_of_mem _ h)
    · rcases Memory.mem_write h with h | h
      · exact Or.inl (by simp [h])
      · exact Or.inr h

/-- Reading a space depends on its memory alone. -/
theorem State.readByte_congr {s t : State} (sp : Space) (x : Nat) (h : s.memory sp = t.memory sp) :
    s.readByte sp x = t.readByte sp x := by
  simp [State.readByte, h]

/-! ## Numbers as bytes -/

@[simp] theorem length_bytesOf (n v : Nat) : (bytesOf n v).length = n := by
  induction n with
  | zero => rfl
  | succ n ih => simp [bytesOf, ih]

/-- The big-endian bytes of a number spell it back, modulo their width. -/
theorem numberOf_bytesOf (n v : Nat) : numberOf (bytesOf n v) = v % 256 ^ n := by
  induction n with
  | zero => simp [bytesOf, numberOf, Nat.mod_one]
  | succ n ih =>
    simp only [bytesOf, numberOf, ih, length_bytesOf, BitVec.toNat_ofNat]
    rw [show (2 : Nat) ^ 8 = 256 from rfl, Nat.pow_succ, Nat.mod_mul (x := v), Nat.mul_comm]
    omega

@[simp] theorem length_hex8 (x : Word) : (hex8 x).length = 8 := by
  simp [hex8]

@[simp] theorem State.length_readBytes (s : State) (sp : Space) (a n : Nat) : (s.readBytes sp a n).length = n := by
  simp [State.readBytes]

end Sys2Proof.Machine
end

