-- ==== Sys2Proof/Laws/Ops.lean ====
section
/-! SUPPORT. One lemma for each shared operation that a meaning or a step goes through: everything the operation can do. -/

namespace Sys2Proof.Machine

/-! ## A micro-operation -/

/-- A micro-operation answers a next state exactly where PHASE names it inside the invariants, and then its own effect. -/
theorem State.microOp_next (s after t : State) (p : Phase) :
    s.microOp p after = .next t ↔ (s.phase = p ∧ s.legal = true) ∧ after = t := by
  unfold State.microOp
  split <;> simp_all

/-- Where PHASE names it inside the invariants, a micro-operation has its own effect. -/
theorem State.microOp_runs {s : State} {p : Phase} (after : State) (hp : s.phase = p) (hl : s.legal = true) :
    s.microOp p after = .next after := by
  simp [State.microOp, hp, hl]

/-- Anywhere else a micro-operation is refused under its phase's name. -/
theorem State.microOp_refused {s : State} {p : Phase} (after : State) (h : ¬ (s.phase = p ∧ s.legal = true)) :
    s.microOp p after = .refused (.outsideInvariants p) := by
  rw [State.microOp, if_neg h]

/-- A micro-operation never ends in a fault. -/
theorem State.microOp_ne_fault (s after : State) (p : Phase) (f : Fault) : s.microOp p after ≠ .fault f := by
  unfold State.microOp
  split <;> simp

/-! ## The parts of the invariants -/

/-- The invariants of 10_state.md rule R42, part by part. -/
theorem State.legal_iff (s : State) :
    s.legal = true ↔ s.statusLegal = true ∧ s.padLegal = true ∧ s.tLegal = true ∧ s.blockLegal = true ∧ s.modeLegal = true := by
  simp [State.legal, and_assoc]

/-! ## Commands and windows -/

/-- A working command is accepted in IDLE and changes nothing anywhere else. -/
theorem startCommand_eq (m : Mode) (p : Phase) (s : State) :
    startCommand m p s = .next (if s.phase = .idle then s.accept m p else s) := by
  unfold startCommand
  split <;> rfl

/-- A window is open in IDLE for an address inside it. -/
theorem State.window_iff (s : State) (addr : BitVec 30) (size : Nat) :
    s.window addr size = true ↔ s.phase = .idle ∧ addr.toNat < size := by
  simp [State.window]

/-- A window write always answers a next state: the byte written where the window is open, the same state elsewhere. -/
theorem writeWindow_eq (sp : Space) (addr : BitVec 30) (data : BitVec 64) (s : State) :
    writeWindow sp addr data s =
      .next (if s.phase = .idle ∧ addr.toNat < Config.spaceSize sp then s.writeByte sp addr.toNat (byteOf data) else s) := by
  unfold writeWindow
  simp only [State.window_iff]
  split <;> rfl

/-- A window read always answers a next state: a reply with the value where the window is open, a free value elsewhere. -/
theorem readWindow_eq (sel : BitVec 3) (addr : BitVec 30) (size : Nat) (value : BitVec 64) (s : State) :
    readWindow sel addr size value s =
      .next (if s.phase = .idle ∧ addr.toNat < size then s.reply sel addr value else s.replyUnspecified sel addr) := by
  unfold readWindow
  simp only [State.window_iff]
  split <;> rfl

/-- Every command answers a next state. -/
theorem runCommand_next (c : Command) (s : State) : ∃ t, runCommand c s = .next t := by
  cases c <;>
    first
    | exact ⟨_, rfl⟩
    | exact ⟨_, startCommand_eq _ _ s⟩

/-- The meaning of WR.CMD is that of the command its data names. -/
theorem runCommand_eq_exec (c : Command) (s : State) : runCommand c s = exec c.instr s := by
  cases c <;> rfl

/-- Every host access answers a next state. -/
theorem access_next (a : Access) (s : State) : ∃ t, exec a.instr s = .next t := by
  unfold Access.instr
  split
  · exact runCommand_next _ s
  · exact ⟨_, rfl⟩
  · exact ⟨_, rfl⟩
  · exact ⟨_, rfl⟩
  · simp only [exec, execWrMsgLen]
    split <;> exact ⟨_, rfl⟩
  · exact ⟨_, rfl⟩
  · simp only [exec, execWrPlen]
    split <;> exact ⟨_, rfl⟩
  · exact ⟨_, rfl⟩
  · exact ⟨_, writeWindow_eq _ _ _ s⟩
  · exact ⟨_, readWindow_eq _ _ _ _ s⟩
  · exact ⟨_, writeWindow_eq _ _ _ s⟩
  · exact ⟨_, readWindow_eq _ _ _ _ s⟩
  · exact ⟨_, readWindow_eq _ _ _ _ s⟩
  · exact ⟨_, rfl⟩
  · exact ⟨_, readWindow_eq _ _ _ _ s⟩
  · exact ⟨_, rfl⟩

/-! ## Codes -/

theorem Phase.ofCode_code (p : Phase) : Phase.ofCode (Phase.code p) = p := by
  cases p <;> decide

theorem Command.ofCode_code (c : Command) : Command.ofCode (Command.code c) = c := by
  cases c <;> decide

/-- The instruction the sequencer fetches is the one PHASE names. -/
theorem decode_phase_code (p : Phase) : decode (.phase (Phase.code p)) = p.instr := by
  simp [decode, Phase.ofCode_code]

/-! ## Whose turn it is -/

@[simp] theorem State.nextTurn_nil {s : State} (h : s.pending = []) :
    s.nextTurn = (some (.phase (Phase.code s.phase)), s) := by
  simp [State.nextTurn, h]

@[simp] theorem State.nextTurn_sequencer {s : State} {rest : List Event} (h : s.pending = .sequencer :: rest) :
    s.nextTurn = (some (.phase (Phase.code s.phase)), { s with pending := rest }) := by
  simp [State.nextTurn, h]

@[simp] theorem State.nextTurn_access {s : State} {word : BitVec 98} {rest : List Event} (h : s.pending = .access word :: rest) :
    s.nextTurn = (some (.acc word), { s with pending := rest }) := by
  simp [State.nextTurn, h]

@[simp] theorem State.nextTurn_command {s : State} {code : BitVec 3} {rest : List Event} (h : s.pending = .command code :: rest) :
    s.nextTurn = (some (.cmd code), { s with pending := rest }) := by
  simp [State.nextTurn, h]

@[simp] theorem State.nextTurn_resetInput {s : State} {rest : List Event} (h : s.pending = .resetInput :: rest) :
    s.nextTurn = (none, { s with pending := rest }) := by
  simp [State.nextTurn, h]

/-! ## The hex characters -/

/-- Every character of a word is one of the sixteen codes. -/
theorem isHexCode_hex8 (x : Word) (b : Byte) (hb : b ∈ hex8 x) : isHexCode b = true := by
  simp only [hex8, List.mem_map] at hb
  obtain ⟨n, -, rfl⟩ := hb
  generalize nibble x n = y
  revert y
  decide

/-- Hex character codes written to HEX leave only such codes there. -/
theorem onlyHexCodes_writeBytes {s : State} {bs : List Byte} (a : Nat) (hb : ∀ b ∈ bs, isHexCode b = true)
    (h : Memory.onlyHexCodes s.hex = true) : Memory.onlyHexCodes (s.writeBytes .hex a bs).hex = true := by
  simp only [Memory.onlyHexCodes, List.all_eq_true] at h ⊢
  intro cell hc
  exact (State.mem_hex_writeBytes hc).elim (hb _) (h cell)

/-! ## Runs -/

/-- A run of one step more is a step and then the run from where it leads. -/
theorem runSteps_succ {s u : State} (k : Nat) (h : step s = .next u) : runSteps (k + 1) s = runSteps k u := by
  simp [runSteps, h]

/-- Two runs in a row are one run. -/
theorem runSteps_add {s u : State} (j k : Nat) (h : runSteps j s = .next u) : runSteps (j + k) s = runSteps k u := by
  induction j generalizing s with
  | zero => simp_all [runSteps]
  | succ j ih =>
    rw [Nat.add_right_comm]
    simp only [runSteps] at h ⊢
    split at h <;> simp_all

/-! ## Frames -/

/-- Two states that differ in no unnamed field: the frame, field by field. -/
theorem sameBut_iff (changed : List Field) (s u : State) :
    SameBut changed s u ↔
      (.phase ∉ changed → s.phase = u.phase) ∧ (.mode ∉ changed → s.mode = u.mode) ∧ (.ptr ∉ changed → s.ptr = u.ptr) ∧
      (.blk ∉ changed → s.blk = u.blk) ∧ (.t ∉ changed → s.t = u.t) ∧ (.done ∉ changed → s.done = u.done) ∧
      (.err ∉ changed → s.err = u.err) ∧ (.msgLen ∉ changed → s.msgLen = u.msgLen) ∧ (.plen ∉ changed → s.plen = u.plen) ∧
      (.h ∉ changed → s.h = u.h) ∧ (.v ∉ changed → s.v = u.v) ∧ (.w ∉ changed → s.w = u.w) ∧ (.hex ∉ changed → s.hex = u.hex) ∧
      (.msg ∉ changed → s.msg = u.msg) ∧ (.pbuf ∉ changed → s.pbuf = u.pbuf) ∧ (.pending ∉ changed → s.pending = u.pending) ∧
      (.replies ∉ changed → s.replies = u.replies) ∧ (.draws ∉ changed → s.draws = u.draws) := by
  constructor
  · intro h
    exact ⟨h .phase, h .mode, h .ptr, h .blk, h .t, h .done, h .err, h .msgLen, h .plen, h .h, h .v, h .w, h .hex, h .msg, h .pbuf,
      h .pending, h .replies, h .draws⟩
  · rintro ⟨h1, h2, h3, h4, h5, h6, h7, h8, h9, h10, h11, h12, h13, h14, h15, h16, h17, h18⟩ f hf
    cases f
    · exact h1 hf
    · exact h2 hf
    · exact h3 hf
    · exact h4 hf
    · exact h5 hf
    · exact h6 hf
    · exact h7 hf
    · exact h8 hf
    · exact h9 hf
    · exact h10 hf
    · exact h11 hf
    · exact h12 hf
    · exact h13 hf
    · exact h14 hf
    · exact h15 hf
    · exact h16 hf
    · exact h17 hf
    · exact h18 hf

/-- A larger set of changed fields allows more. -/
theorem SameBut.mono {small large : List Field} {s u : State} (h : SameBut small s u) (hsub : ∀ f ∈ small, f ∈ large) :
    SameBut large s u :=
  fun f hf => h f fun hs => hf (hsub f hs)

theorem SameBut.trans {changed : List Field} {s u x : State} (h1 : SameBut changed s u) (h2 : SameBut changed u x) :
    SameBut changed s x := by
  intro f hf
  have a := h1 f hf
  have b := h2 f hf
  cases f <;> exact Eq.trans a b

theorem SameBut.refl (changed : List Field) (s : State) : SameBut changed s s := by
  intro f _
  cases f <;> rfl

end Sys2Proof.Machine
end

