-- ==== Sys2Proof/Laws/PerInstr.lean ====
section
/-! SUPPORT. Per-instruction laws: an instruction's encoding matches its row of the opcode table. -/

namespace Sys2Proof.Laws.MatchesTable

/-- The encoding has the row's number of bits, and its selecting bits have the row's value (spec/opcode_table.json). -/
def Statement (i : Instr) : Prop :=
  (encode i).nbits = i.tableRow.nbits ∧ (encode i).bits &&& i.tableRow.mask = i.tableRow.pattern

/-- The selecting bits of a host access are its header (30_encoding.md rule R92). -/
theorem header_bits (wr : BitVec 1) (sel : BitVec 3) (addr : BitVec 30) (data : BitVec 64) :
    (encodeAccess wr sel addr data).bits &&& 0x3c00000000000000000000000 = (8 * wr.toNat + sel.toNat) * 2 ^ 94 := by
  have hx : (encodeAccess wr sel addr data).bits =
      (8 * wr.toNat + sel.toNat) * 2 ^ 94 + (addr.toNat * 2 ^ 64 + data.toNat) := by
    simp only [encodeAccess, Encoded.bits, Access.pack, BitVec.toNat_append]
    rw [← Nat.shiftLeft_add_eq_or_of_lt sel.isLt, ← Nat.shiftLeft_add_eq_or_of_lt addr.isLt,
      ← Nat.shiftLeft_add_eq_or_of_lt data.isLt]
    simp only [Nat.shiftLeft_eq]
    omega
  have hm : (0x3c00000000000000000000000 : Nat) = 15 <<< 94 := by decide
  have ha := addr.isLt
  have hd := data.isLt
  have hw := wr.isLt
  have hs := sel.isLt
  have hq : ((8 * wr.toNat + sel.toNat) * 2 ^ 94 + (addr.toNat * 2 ^ 64 + data.toNat)) / 2 ^ 94 = 8 * wr.toNat + sel.toNat := by
    omega
  rw [hx, hm]
  have key : ∀ x : Nat, x &&& (15 <<< 94) = (x / 2 ^ 94 % 2 ^ 4) * 2 ^ 94 := by
    intro x
    rw [← Nat.shiftLeft_eq, ← Nat.shiftRight_eq_div_pow]
    apply Nat.eq_of_testBit_eq
    intro i
    rw [Nat.testBit_and, Nat.testBit_shiftLeft, Nat.testBit_shiftLeft, Nat.testBit_mod_two_pow, Nat.testBit_shiftRight,
      show (15 : Nat) = 2 ^ 4 - 1 from rfl, Nat.testBit_two_pow_sub_one]
    by_cases h : 94 ≤ i
    · simp [h, Bool.and_comm]
    · simp [h]
  rw [key, hq]
  omega

theorem nop : Statement .nop := by
  constructor <;> decide

theorem hash : Statement .hash := by
  constructor <;> decide

theorem pad : Statement .pad := by
  constructor <;> decide

theorem compress : Statement .compress := by
  constructor <;> decide

theorem encode : Statement .encode := by
  constructor <;> decide

theorem cmdReserved5 : Statement .cmdReserved5 := by
  constructor <;> decide

theorem cmdReserved6 : Statement .cmdReserved6 := by
  constructor <;> decide

theorem rst : Statement .rst := by
  constructor <;> decide

theorem idle : Statement .idle := by
  constructor <;> decide

theorem padChk : Statement .padChk := by
  constructor <;> decide

theorem padCopy : Statement .padCopy := by
  constructor <;> decide

theorem padMark : Statement .padMark := by
  constructor <;> decide

theorem padZero : Statement .padZero := by
  constructor <;> decide

theorem padLen : Statement .padLen := by
  constructor <;> decide

theorem cmpChk : Statement .cmpChk := by
  constructor <;> decide

theorem accIv : Statement .accIv := by
  constructor <;> decide

theorem msxLoad : Statement .msxLoad := by
  constructor <;> decide

theorem msxExp : Statement .msxExp := by
  constructor <;> decide

theorem rndInit : Statement .rndInit := by
  constructor <;> decide

theorem rndStep : Statement .rndStep := by
  constructor <;> decide

theorem accAdd : Statement .accAdd := by
  constructor <;> decide

theorem hexEnc : Statement .hexEnc := by
  constructor <;> decide

theorem phaseReserved14 : Statement .phaseReserved14 := by
  constructor <;> decide

theorem fault : Statement .fault := by
  constructor <;> decide

theorem wrCmd (addr : BitVec 30) (data : BitVec 64) : Statement (.wrCmd addr data) :=
  ⟨rfl, header_bits _ _ addr data⟩

theorem rdCmd (addr : BitVec 30) (data : BitVec 64) : Statement (.rdCmd addr data) :=
  ⟨rfl, header_bits _ _ addr data⟩

theorem rdStatus (addr : BitVec 30) (data : BitVec 64) : Statement (.rdStatus addr data) :=
  ⟨rfl, header_bits _ _ addr data⟩

theorem wrStatus (addr : BitVec 30) (data : BitVec 64) : Statement (.wrStatus addr data) :=
  ⟨rfl, header_bits _ _ addr data⟩

theorem wrMsgLen (addr : BitVec 30) (data : BitVec 64) : Statement (.wrMsgLen addr data) :=
  ⟨rfl, header_bits _ _ addr data⟩

theorem rdMsgLen (addr : BitVec 30) (data : BitVec 64) : Statement (.rdMsgLen addr data) :=
  ⟨rfl, header_bits _ _ addr data⟩

theorem wrPlen (addr : BitVec 30) (data : BitVec 64) : Statement (.wrPlen addr data) :=
  ⟨rfl, header_bits _ _ addr data⟩

theorem rdPlen (addr : BitVec 30) (data : BitVec 64) : Statement (.rdPlen addr data) :=
  ⟨rfl, header_bits _ _ addr data⟩

theorem wrMsg (addr : BitVec 30) (data : BitVec 64) : Statement (.wrMsg addr data) :=
  ⟨rfl, header_bits _ _ addr data⟩

theorem rdMsg (addr : BitVec 30) (data : BitVec 64) : Statement (.rdMsg addr data) :=
  ⟨rfl, header_bits _ _ addr data⟩

theorem wrPbuf (addr : BitVec 30) (data : BitVec 64) : Statement (.wrPbuf addr data) :=
  ⟨rfl, header_bits _ _ addr data⟩

theorem rdPbuf (addr : BitVec 30) (data : BitVec 64) : Statement (.rdPbuf addr data) :=
  ⟨rfl, header_bits _ _ addr data⟩

theorem rdH (addr : BitVec 30) (data : BitVec 64) : Statement (.rdH addr data) :=
  ⟨rfl, header_bits _ _ addr data⟩

theorem wrH (addr : BitVec 30) (data : BitVec 64) : Statement (.wrH addr data) :=
  ⟨rfl, header_bits _ _ addr data⟩

theorem rdHex (addr : BitVec 30) (data : BitVec 64) : Statement (.rdHex addr data) :=
  ⟨rfl, header_bits _ _ addr data⟩

theorem wrHex (addr : BitVec 30) (data : BitVec 64) : Statement (.wrHex addr data) :=
  ⟨rfl, header_bits _ _ addr data⟩

end Sys2Proof.Laws.MatchesTable
end

