-- ==== Sys2Proof/Machine/Script.lean ====
section
/-! DEFINITION. The host script: one line per host action, its instruction, its encoding, and the pseudo-instructions with their
expansions (30_encoding.md rules R101, R102). A script is what a host puts among the pending events. -/

namespace Sys2Proof.Machine

/-- A line of a host script (30_encoding.md rule R101), the pseudo-instructions of rule R102 included. -/
inductive ScriptLine where
  /-- `CMD <name>`. -/
  | cmd (c : Command)
  /-- `WR MSG_LEN, <n>`. -/
  | wrMsgLen (n : BitVec 64)
  /-- `WR PLEN, <n>`. -/
  | wrPlen (n : BitVec 64)
  /-- `WR MSG[<a>], <byte>`. -/
  | wrMsg (a : BitVec 30) (b : Byte)
  /-- `WR PBUF[<a>], <byte>`. -/
  | wrPbuf (a : BitVec 30) (b : Byte)
  /-- `RD STATUS`. -/
  | rdStatus
  /-- `RD MSG_LEN`. -/
  | rdMsgLen
  /-- `RD PLEN`. -/
  | rdPlen
  /-- `RD MSG[<a>]`. -/
  | rdMsg (a : BitVec 30)
  /-- `RD PBUF[<a>]`. -/
  | rdPbuf (a : BitVec 30)
  /-- `RD H[<i>]`. -/
  | rdH (i : BitVec 30)
  /-- `RD HEX[<i>]`. -/
  | rdHex (i : BitVec 30)
  /-- `LOADMSG b0 b1 ...`. -/
  | loadMsg (bytes : List Byte)
  /-- `LOADPBUF b0 b1 ...`. -/
  | loadPbuf (bytes : List Byte)
  /-- `WAIT`, as the number of times the host reads STATUS, the sequencer taking its turn before each (log entry 14). -/
  | wait (polls : Nat)
  /-- `RDDIGEST`. -/
  | rdDigest
  /-- `RDHEXSTR`. -/
  | rdHexStr
  deriving DecidableEq, Repr

/-- One access among the pending events, by its instruction (30_encoding.md rules R92, R101). -/
def eventOf (i : Instr) : Event :=
  match encode i with
  | .cmd code => .command code
  | .phase _ => .sequencer
  | .acc word => .access word

/-- The accesses that write bytes one by one from address `a` on. -/
def writeEach (write : BitVec 30 → BitVec 64 → Instr) : Nat → List Byte → List Event
  | _, [] => []
  | a, b :: bs => eventOf (write (BitVec.ofNat 30 a) (zext64 b)) :: writeEach write (a + 1) bs

/-- The accesses that read the elements 0 to n - 1 of a window, in that order. -/
def readEach (read : BitVec 30 → BitVec 64 → Instr) (n : Nat) : List Event :=
  (List.range n).map fun a => eventOf (read (BitVec.ofNat 30 a) 0)

/-- What a line puts among the pending events: one access, or a pseudo-instruction's expansion (30_encoding.md rules R101, R102). -/
def ScriptLine.events : ScriptLine → List Event
  | .cmd c => [eventOf (.wrCmd 0 (zext64 (Command.code c)))]
  | .wrMsgLen n => [eventOf (.wrMsgLen 0 n)]
  | .wrPlen n => [eventOf (.wrPlen 0 n)]
  | .wrMsg a b => [eventOf (.wrMsg a (zext64 b))]
  | .wrPbuf a b => [eventOf (.wrPbuf a (zext64 b))]
  | .rdStatus => [eventOf (.rdStatus 0 0)]
  | .rdMsgLen => [eventOf (.rdMsgLen 0 0)]
  | .rdPlen => [eventOf (.rdPlen 0 0)]
  | .rdMsg a => [eventOf (.rdMsg a 0)]
  | .rdPbuf a => [eventOf (.rdPbuf a 0)]
  | .rdH i => [eventOf (.rdH i 0)]
  | .rdHex i => [eventOf (.rdHex i 0)]
  | .loadMsg bytes => writeEach .wrMsg 0 bytes ++ [eventOf (.wrMsgLen 0 (BitVec.ofNat 64 bytes.length))]
  | .loadPbuf bytes => writeEach .wrPbuf 0 bytes ++ [eventOf (.wrPlen 0 (BitVec.ofNat 64 bytes.length))]
  | .wait polls => (List.replicate polls [Event.sequencer, eventOf (.rdStatus 0 0)]).flatten
  | .rdDigest => readEach .rdH 8
  | .rdHexStr => readEach .rdHex 64

/-- What a whole script puts among the pending events. -/
def scriptEvents (lines : List ScriptLine) : List Event :=
  lines.flatMap ScriptLine.events

/-- The name a `CMD` line spells (30_encoding.md rules R91, R101). The reserved codes have no name in a script. -/
def commandName : Command → String
  | .nop => "NOP"
  | .hash => "HASH"
  | .pad => "PAD"
  | .compress => "COMPRESS"
  | .encode => "ENCODE"
  | .reserved5 => "RESERVED5"
  | .reserved6 => "RESERVED6"
  | .rst => "RST"

/-- A line as a host script spells it, numbers in decimal (30_encoding.md rules R101, R102). -/
def ScriptLine.text : ScriptLine → String
  | .cmd c => "CMD " ++ commandName c
  | .wrMsgLen n => "WR MSG_LEN, " ++ toString n.toNat
  | .wrPlen n => "WR PLEN, " ++ toString n.toNat
  | .wrMsg a b => "WR MSG[" ++ toString a.toNat ++ "], " ++ toString b.toNat
  | .wrPbuf a b => "WR PBUF[" ++ toString a.toNat ++ "], " ++ toString b.toNat
  | .rdStatus => "RD STATUS"
  | .rdMsgLen => "RD MSG_LEN"
  | .rdPlen => "RD PLEN"
  | .rdMsg a => "RD MSG[" ++ toString a.toNat ++ "]"
  | .rdPbuf a => "RD PBUF[" ++ toString a.toNat ++ "]"
  | .rdH i => "RD H[" ++ toString i.toNat ++ "]"
  | .rdHex i => "RD HEX[" ++ toString i.toNat ++ "]"
  | .loadMsg bytes => "LOADMSG" ++ String.join (bytes.map fun b => " " ++ toString b.toNat)
  | .loadPbuf bytes => "LOADPBUF" ++ String.join (bytes.map fun b => " " ++ toString b.toNat)
  | .wait _ => "WAIT"
  | .rdDigest => "RDDIGEST"
  | .rdHexStr => "RDHEXSTR"

end Sys2Proof.Machine
end

