-- ==== Sys2Proof/Tests/Slice0.lean ====
section
/-! SUPPORT. Tests: an ill-formed term for each check of `wellFormed`, a word of every row of the opcode table, the vectors of
95_test_vectors.md, one step of every micro-operation and access, and for every obligation with hypotheses a state and operands
that meet them. Every expected value is taken from spec/. -/

namespace Sys2Proof.Tests

open Sys2Proof.Machine

/-! ## Helpers -/

/-- The outcome is a next state with a property. -/
def after (o : Host.Outcome State Fault Refusal) (p : State → Bool) : Bool :=
  match o with
  | .next u => p u
  | .fault _ => false
  | .refused _ => false

/-- A state in which H, V and W are known: zeros, with H at the initial constants. -/
def base : State :=
  { State.reset with h := ivTable, v := words8 fun _ => 0, w := words64 fun _ => 0 }

/-- A padder state. -/
def padAt (p : Phase) (m : Mode) (ptr len : Nat) : State :=
  { base with phase := p, mode := m, ptr := BitVec.ofNat 30 ptr, msgLen := BitVec.ofNat 64 len }

/-- A compressor state on block `blk` of a buffer of `plen` bytes. -/
def cmpAt (p : Phase) (m : Mode) (blk t plen : Nat) : State :=
  { base with phase := p, mode := m, blk := BitVec.ofNat 24 blk, t := BitVec.ofNat 6 t, plen := BitVec.ofNat 30 plen }

/-- An encoder state. -/
def hexAt (m : Mode) (t : Nat) : State :=
  { base with phase := .hexEnc, mode := m, t := BitVec.ofNat 6 t }

/-- A state in FAULT. -/
def faulted (e : ErrCode) : State :=
  { base with phase := .fault, err := e, mode := .compress }

/-- The state with one event pending. -/
def withEvent (e : Event) (s : State) : State :=
  { s with pending := [e] }

/-- The bytes of a space from address `a` on, listed. -/
def cells (a : Nat) (bs : List Byte) : Memory :=
  bs.zipIdx.map fun p => (a + p.2, p.1)

/-- The data of the last reply. -/
def lastReply (s : State) : Option (BitVec 64) :=
  (s.replies.getLast?).map fun r => r.data

/-! ## Well-formed instructions (30_encoding.md rule R94) -/

theorem test_illFormed_wrMsg : Instr.wellFormed (.wrMsg 0x20000000 0) = false ∧ Instr.wellFormed (.wrMsg 0x1fffffff 0) = true := by decide

theorem test_illFormed_rdMsg : Instr.wellFormed (.rdMsg 0x20000000 0) = false ∧ Instr.wellFormed (.rdMsg 0x1fffffff 0) = true := by decide

theorem test_illFormed_rdH : Instr.wellFormed (.rdH 0x8 0) = false ∧ Instr.wellFormed (.rdH 0x7 0) = true := by decide

theorem test_illFormed_rdHex : Instr.wellFormed (.rdHex 0x40 0) = false ∧ Instr.wellFormed (.rdHex 0x3f 0) = true := by decide

/-- PBUF takes all 30 bits of `addr`: the check on a PBUF access fails on no 30-bit address. -/
theorem test_wellFormed_pbuf_top : Instr.wellFormed (.wrPbuf 0x3fffffff 0) = true ∧ Instr.wellFormed (.rdPbuf 0x3fffffff 0) = true := by decide

/-! ## Decoding: a word of every row, from the tables of 30_encoding.md rules R91, R92, R93 -/

theorem test_decode_commands :
    decode (.cmd 0b000#3) = .nop ∧
    decode (.cmd 0b001#3) = .hash ∧
    decode (.cmd 0b010#3) = .pad ∧
    decode (.cmd 0b011#3) = .compress ∧
    decode (.cmd 0b100#3) = .encode ∧
    decode (.cmd 0b101#3) = .cmdReserved5 ∧
    decode (.cmd 0b110#3) = .cmdReserved6 ∧
    decode (.cmd 0b111#3) = .rst := by
  decide

theorem test_decode_phases :
    decode (.phase 0b0000#4) = .idle ∧
    decode (.phase 0b0001#4) = .padChk ∧
    decode (.phase 0b0010#4) = .padCopy ∧
    decode (.phase 0b0011#4) = .padMark ∧
    decode (.phase 0b0100#4) = .padZero ∧
    decode (.phase 0b0101#4) = .padLen ∧
    decode (.phase 0b0110#4) = .cmpChk ∧
    decode (.phase 0b0111#4) = .accIv ∧
    decode (.phase 0b1000#4) = .msxLoad ∧
    decode (.phase 0b1001#4) = .msxExp ∧
    decode (.phase 0b1010#4) = .rndInit ∧
    decode (.phase 0b1011#4) = .rndStep ∧
    decode (.phase 0b1100#4) = .accAdd ∧
    decode (.phase 0b1101#4) = .hexEnc ∧
    decode (.phase 0b1110#4) = .phaseReserved14 ∧
    decode (.phase 0b1111#4) = .fault := by
  decide

/-- The words of 95_test_vectors.md section 8 where it prints one, otherwise the header of R92 with `addr` and `data` written out. -/
theorem test_decode_accesses :
    decode (.acc 0x2000000000000000000000003#98) = .wrCmd 0 3 ∧
    decode (.acc 0x000000005000000000000000a#98) = .rdCmd 5 10 ∧
    decode (.acc 0x0400000000000000000000000#98) = .rdStatus 0 0 ∧
    decode (.acc 0x24000000000000000000000ff#98) = .wrStatus 0 0xff ∧
    decode (.acc 0x2800000000000000020000000#98) = .wrMsgLen 0 0x20000000 ∧
    decode (.acc 0x0800000000000000000000000#98) = .rdMsgLen 0 0 ∧
    decode (.acc 0x2c00000000000000000000041#98) = .wrPlen 0 65 ∧
    decode (.acc 0x0c00000000000000000000000#98) = .rdPlen 0 0 ∧
    decode (.acc 0x3000000020000000000000063#98) = .wrMsg 2 0x63 ∧
    decode (.acc 0x1000000020000000000000000#98) = .rdMsg 2 0 ∧
    decode (.acc 0x34000000000000000000000ee#98) = .wrPbuf 0 0xee ∧
    decode (.acc 0x14000007f0000000000000000#98) = .rdPbuf 127 0 ∧
    decode (.acc 0x1800000070000000000000000#98) = .rdH 7 0 ∧
    decode (.acc 0x3800000030000000000000001#98) = .wrH 3 1 ∧
    decode (.acc 0x1c000003f0000000000000000#98) = .rdHex 63 0 ∧
    decode (.acc 0x3fffffffffffffffffffffffe#98) = .wrHex 0x3fffffff 0xfffffffffffffffe := by
  decide

/-- A number too large for its format, and a width no format has, are rejected by name. -/
theorem test_decode_rejects :
    decodeWord 3 8 = .error (.bitsBeyondFormat 3 8) ∧ decodeWord 98 (2 ^ 98) = .error (.bitsBeyondFormat 98 (2 ^ 98)) ∧
    decodeWord 5 0 = .error (.noSuchFormat 5) := by
  decide

/-! ## Functions (95_test_vectors.md sections 2 to 6) -/

theorem test_rotr : rotr 0x12345678 8 = 0x78123456 ∧ rotr 0x00000001 1 = 0x80000000 ∧ rotr 0x80000000 31 = 0x00000001 ∧ rotr 0x6a09e667 25 = 0x04f333b5 := by decide

theorem test_shr : shr 0x80000001 3 = 0x10000000 ∧ shr 0xffffffff 10 = 0x003fffff := by decide

theorem test_add_wraps : (0xffffffff#32 + 0x00000001#32 = 0) ∧ (0xbb67ae85#32 + 0xd39a2165#32 = 0x8f01cfea#32) := by decide

theorem test_sigma0 : sigma0 0xffffffff = 0x1fffffff ∧ sigma0 0x12345678 = 0xe7fce6ee ∧ sigma0 0x00000001 = 0x02004000 := by decide

theorem test_sigma1 : sigma1 0xffffffff = 0x003fffff ∧ sigma1 0x12345678 = 0xa1f78649 ∧ sigma1 0x00000018 = 0x000f0000 := by decide

theorem test_bigSigma0 : bigSigma0 0x12345678 = 0x66146474 ∧ bigSigma0 0x6a09e667 = 0xce20b47e := by decide

theorem test_bigSigma1 : bigSigma1 0x12345678 = 0x3561abda ∧ bigSigma1 0x510e527f = 0x3587272b := by decide

theorem test_ch : ch 0xf0f0f0f0 0x12345678 0x9abcdef0 = 0x1a3c5e70 ∧ ch 0x510e527f 0x9b05688c 0x1f83d9ab = 0x1f85c98c := by decide

theorem test_maj : maj 0xf0f0f0f0 0x12345678 0x9abcdef0 = 0x92b4d6f0 ∧ maj 0x6a09e667 0xbb67ae85 0x3c6ef372 = 0x3a6fe667 := by decide

theorem test_expandWord : expandWord 0x61626380 0 0 0 = 0x61626380 ∧ expandWord 0 0 0 0x00000018 = 0x000f0000 := by decide

/-- Round 0 of the block "abc" (42_round_engine.md rule R160). -/
theorem test_oneRound :
    oneRound ivTable 0x428a2f98 0x61626380 =
      #v[0x5d6aebcd#32, 0x6a09e667#32, 0xbb67ae85#32, 0x3c6ef372#32, 0xfa2a4622#32, 0x510e527f#32, 0x9b05688c#32, 0x1f83d9ab#32] := by
  decide

theorem test_hex8 : hex8 0x00000abc = [0x30#8, 0x30#8, 0x30#8, 0x30#8, 0x30#8, 0x61#8, 0x62#8, 0x63#8] ∧
    hex8 0xba7816bf = [0x62#8, 0x61#8, 0x37#8, 0x38#8, 0x31#8, 0x36#8, 0x62#8, 0x66#8] := by
  decide

theorem test_kTable_ends : kTable[0] = 0x428a2f98 ∧ kTable[63] = 0xc67178f2 ∧ kTable[32] = 0x27b70a85 := by decide

theorem test_be32 : be32 [0x61#8, 0x62#8, 0x63#8, 0x80#8] = 0x61626380 ∧ be32 [1, 2, 3, 4] = 0x01020304 := by decide

theorem test_bytesOf : bytesOf 8 0xfffffff8 = [0, 0, 0, 0, 0xff#8, 0xff#8, 0xff#8, 0xf8#8] ∧ bytesOf 8 8000 = [0, 0, 0, 0, 0, 0, 0x1f#8, 0x40#8] := by decide

theorem test_bitLength : bitLength 3 = 0x18 ∧ bitLength (2 ^ 29 - 1) = 0xfffffff8 := by decide

/-- The padding of "abc" and of the empty message (30_encoding.md rule R103, 95_test_vectors.md section 3). -/
theorem test_padMessage :
    padMessage (asciiBytes "abc") =
      some ([0x61#8, 0x62#8, 0x63#8, 0x80#8] ++ List.replicate 52 0x00#8 ++ [0, 0, 0, 0, 0, 0, 0, 0x18#8]) ∧
    padMessage [] = some ([0x80#8] ++ List.replicate 55 0x00#8 ++ List.replicate 8 0x00#8) := by
  decide

/-- The boundary table of 40_padder.md rule R127 (g). -/
theorem test_paddedLength :
    [0, 3, 55, 56, 57, 63, 64, 119, 120, 1000, 2 ^ 29 - 1].map paddedLength =
      [64, 64, 64, 128, 128, 128, 128, 128, 192, 1024, 2 ^ 29 + 64] := by
  decide

/-- The two strings a word order or a nibble order would change (95_test_vectors.md section 1). -/
theorem test_encodeHex :
    encodeHex #v[0xba7816bf#32, 0x8f01cfea#32, 0x414140de#32, 0x5dae2223#32, 0xb00361a3#32, 0x96177a9c#32, 0xb410ff61#32,
      0xf20015ad#32] = asciiBytes "ba7816bf8f01cfea414140de5dae2223b00361a396177a9cb410ff61f20015ad" := by
  decide +kernel

/-- The known answer of "abc" (95_test_vectors.md section 1.1). -/
theorem test_hash_abc :
    hashMessage (asciiBytes "abc") =
      some (asciiBytes "ba7816bf8f01cfea414140de5dae2223b00361a396177a9cb410ff61f20015ad") := by
  decide +kernel

/-- The known answer of the empty message (95_test_vectors.md section 1.1). -/
theorem test_hash_empty :
    hashMessage [] = some (asciiBytes "e3b0c44298fc1c149afbf4c8996fb92427ae41e4649b934ca495991b7852b855") := by
  decide +kernel

/-- The schedule of "abc", first and last words derived (95_test_vectors.md section 4.2). -/
theorem test_schedule_abc :
    ((schedule ((padMessage (asciiBytes "abc")).getD [])).drop 16).take 4 = [0x61626380#32, 0x000f0000#32, 0x7da86405#32, 0x600003c6#32] ∧
    (schedule ((padMessage (asciiBytes "abc")).getD [])).getD 63 0 = 0x12b1edeb#32 := by
  decide +kernel

/-! ## Reset (10_state.md rule R43) -/

theorem test_reset : State.reset.phase = .idle ∧ State.reset.mode = .none ∧ State.reset.status = 0x00#8 ∧ State.reset.msgLen = 0 ∧ State.reset.plen = 0 := by decide

/-- The first step of the machine with nothing placed: the sequencer waits in IDLE (70_reset_and_hazards.md rule R270). -/
theorem test_reset_waits : step State.reset = .next State.reset := rfl

/-- The reset input is the reset event. -/
theorem test_resetInput : after (step (withEvent .resetInput (faulted .inputTooLarge))) (fun u => decide (u.phase = .idle ∧ u.err = .none ∧ u.h = ivTable)) = true := by decide

/-! ## Commands (45_host_commands.md rules R200 to R206) -/

theorem test_nop_keeps_done : after (step (withEvent (.command 0b000#3) { base with done := true })) (fun u => decide (u.status = 0x02#8 ∧ u.phase = .idle)) = true := by decide

theorem test_hash_accepted : after (step (withEvent (.command 0b001#3) { base with done := true, ptr := 64, blk := 1 })) (fun u => decide (u.phase = .padChk ∧ u.mode = .hash ∧ u.done = false ∧ u.ptr = 0 ∧ u.blk = 0)) = true := by decide

theorem test_hash_ignored_in_fault : after (step (withEvent (.command 0b001#3) (faulted .inputTooLarge))) (fun u => decide (u.phase = .fault ∧ u.mode = .compress)) = true := by decide

theorem test_pad_accepted : after (step (withEvent (.command 0b010#3) base)) (fun u => decide (u.phase = .padChk ∧ u.mode = .pad)) = true := by decide

theorem test_pad_ignored_while_busy : after (step (withEvent (.command 0b010#3) (padAt .padCopy .hash 1 3))) (fun u => decide (u.phase = .padCopy ∧ u.mode = .hash ∧ u.ptr = 1)) = true := by decide

theorem test_compress_accepted : after (step (withEvent (.command 0b011#3) base)) (fun u => decide (u.phase = .cmpChk ∧ u.mode = .compress)) = true := by decide

theorem test_encode_accepted : after (step (withEvent (.command 0b100#3) base)) (fun u => decide (u.phase = .hexEnc ∧ u.mode = .encode ∧ u.t = 0)) = true := by decide

theorem test_reserved5_ignored : after (step (withEvent (.command 0b101#3) base)) (fun u => decide (u.phase = .idle ∧ u.mode = .none)) = true := by decide

theorem test_reserved6_ignored : after (step (withEvent (.command 0b110#3) base)) (fun u => decide (u.phase = .idle ∧ u.mode = .none)) = true := by decide

theorem test_rst_out_of_fault : after (step (withEvent (.command 0b111#3) { faulted .invalidInputLength with plen := 65 })) (fun u => decide (u.phase = .idle ∧ u.err = .none ∧ u.plen = 0 ∧ u.status = 0x00#8)) = true := by decide

theorem test_rst_while_busy : after (step (withEvent (.command 0b111#3) { padAt .padCopy .hash 1 3 with pbuf := [(0, 0x61#8)] })) (fun u => decide (u.phase = .idle ∧ u.msgLen = 0 ∧ u.pbuf = [(0, 0x61#8)] ∧ u.done = false)) = true := by decide

/-! ## Host accesses (45_host_commands.md rules R200, R210 to R221) -/

/-- Data bits above the command code are dropped (30_encoding.md rule R94). -/
theorem test_wrCmd_drops_high_bits : after (step (withEvent (eventOf (.wrCmd 9 0xfffffffffffffffb)) base)) (fun u => decide (u.phase = .cmpChk ∧ u.mode = .compress)) = true := by decide

theorem test_wrCmd_rst : after (step (withEvent (eventOf (.wrCmd 0 7)) (faulted .inputTooLarge))) (fun u => decide (u.phase = .idle ∧ u.err = .none)) = true := by decide

theorem test_rdCmd_returns_0 : after (step (withEvent (eventOf (.rdCmd 5 10)) base)) (fun u => decide (lastReply u = some 0)) = true := by decide

theorem test_rdStatus_busy : after (step (withEvent (eventOf (.rdStatus 0 0)) (padAt .padMark .pad 0 0))) (fun u => decide (lastReply u = some 0x01)) = true := by decide

theorem test_rdStatus_fault : after (step (withEvent (eventOf (.rdStatus 0 0)) (faulted .inputTooLarge))) (fun u => decide (lastReply u = some 0x08)) = true := by decide

theorem test_wrStatus_ignored : after (step (withEvent (eventOf (.wrStatus 0 0xff)) base)) (fun u => decide (u.status = 0x00#8 ∧ u.phase = .idle)) = true := by decide

theorem test_wrMsgLen_idle : after (step (withEvent (eventOf (.wrMsgLen 0 0x20000000)) base)) (fun u => decide (u.msgLen = 0x20000000)) = true := by decide

theorem test_wrMsgLen_fault : after (step (withEvent (eventOf (.wrMsgLen 0 3)) { faulted .inputTooLarge with msgLen := 0x20000000 })) (fun u => decide (u.msgLen = 0x20000000)) = true := by decide

theorem test_rdMsgLen_busy : after (step (withEvent (eventOf (.rdMsgLen 0 0)) (padAt .padCopy .hash 1 3))) (fun u => decide (lastReply u = some 3)) = true := by decide

theorem test_wrPlen_drops : after (step (withEvent (eventOf (.wrPlen 0 0x40000041)) base)) (fun u => decide (u.plen = 65)) = true := by decide

theorem test_wrPlen_busy : after (step (withEvent (eventOf (.wrPlen 0 5)) (padAt .padCopy .hash 1 3))) (fun u => decide (u.plen = 0)) = true := by decide

theorem test_rdPlen : after (step (withEvent (eventOf (.rdPlen 0 0)) { faulted .invalidInputLength with plen := 65 })) (fun u => decide (lastReply u = some 65)) = true := by decide

theorem test_wrMsg_idle : after (step (withEvent (eventOf (.wrMsg 2 0xff63)) base)) (fun u => decide (u.readByte .msg 2 = 0x63#8)) = true := by decide

theorem test_wrMsg_out_of_range : after (step (withEvent (eventOf (.wrMsg 0x20000000 0x63)) base)) (fun u => decide (u.msg = [])) = true := by decide

theorem test_rdMsg_idle : after (step (withEvent (eventOf (.rdMsg 2 0)) { base with msg := [(2, 0x63#8)] })) (fun u => decide (lastReply u = some 0x63 ∧ u.draws = 0)) = true := by decide

theorem test_rdMsg_busy_draws : after (step (withEvent (eventOf (.rdMsg 2 0)) { padAt .padCopy .hash 1 3 with msg := [(2, 0x63#8)] })) (fun u => decide (u.draws = 1 ∧ u.replies.length = 1)) = true := by decide

theorem test_wrPbuf_top : after (step (withEvent (eventOf (.wrPbuf 0x3fffffff 0xee)) base)) (fun u => decide (u.readByte .pbuf 0x3fffffff = 0xee#8)) = true := by decide

theorem test_wrPbuf_busy : after (step (withEvent (eventOf (.wrPbuf 0 0xee)) (padAt .padCopy .hash 1 3))) (fun u => decide (u.pbuf = [])) = true := by decide

theorem test_rdPbuf_idle : after (step (withEvent (eventOf (.rdPbuf 63 0)) { base with pbuf := [(63, 0x18#8)] })) (fun u => decide (lastReply u = some 0x18)) = true := by decide

theorem test_rdPbuf_fault_draws : after (step (withEvent (eventOf (.rdPbuf 63 0)) { faulted .inputTooLarge with pbuf := [(63, 0x18#8)] })) (fun u => decide (u.draws = 1)) = true := by decide

theorem test_rdH_idle : after (step (withEvent (eventOf (.rdH 7 0)) base)) (fun u => decide (lastReply u = some 0x5be0cd19)) = true := by decide

theorem test_rdH_out_of_range : after (step (withEvent (eventOf (.rdH 8 0)) base)) (fun u => decide (u.draws = 1)) = true := by decide

theorem test_wrH_ignored : after (step (withEvent (eventOf (.wrH 3 1)) base)) (fun u => decide (u.h = ivTable)) = true := by decide

theorem test_rdHex_idle : after (step (withEvent (eventOf (.rdHex 63 0)) { base with hex := [(63, 0x64#8)] })) (fun u => decide (lastReply u = some 0x64)) = true := by decide

theorem test_rdHex_out_of_range : after (step (withEvent (eventOf (.rdHex 64 0)) base)) (fun u => decide (u.draws = 1)) = true := by decide

theorem test_wrHex_ignored : after (step (withEvent (eventOf (.wrHex 0 0x61)) base)) (fun u => decide (u.hex = [])) = true := by decide

/-! ## Micro-operations (95_test_vectors.md sections 3 to 6) -/

theorem test_padChk_last_size : after (step (padAt .padChk .hash 0 0x1fffffff)) (fun u => decide (u.phase = .padCopy)) = true := by decide

theorem test_padChk_too_large : after (step (padAt .padChk .hash 0 0x20000000)) (fun u => decide (u.phase = .fault ∧ u.err = .inputTooLarge ∧ u.status = 0x08#8)) = true := by decide

theorem test_padCopy_last_byte : after (step { padAt .padCopy .hash 2 3 with msg := [(2, 0x63#8)] }) (fun u => decide (u.readByte .pbuf 2 = 0x63#8 ∧ u.ptr = 3 ∧ u.phase = .padMark)) = true := by decide

theorem test_padCopy_goes_on : after (step { padAt .padCopy .hash 0 3 with msg := [(0, 0x61#8)] }) (fun u => decide (u.pbuf = [(0, 0x61#8)] ∧ u.ptr = 1 ∧ u.phase = .padCopy)) = true := by decide

theorem test_padMark_straight_to_length : after (step (padAt .padMark .hash 55 55)) (fun u => decide (u.readByte .pbuf 55 = 0x80#8 ∧ u.ptr = 56 ∧ u.phase = .padLen)) = true := by decide

theorem test_padMark_zeros_follow : after (step (padAt .padMark .hash 56 56)) (fun u => decide (u.readByte .pbuf 56 = 0x80#8 ∧ u.ptr = 57 ∧ u.phase = .padZero)) = true := by decide

theorem test_padZero_last : after (step (padAt .padZero .hash 119 57)) (fun u => decide (u.readByte .pbuf 119 = 0x00#8 ∧ u.ptr = 120 ∧ u.phase = .padLen)) = true := by decide

theorem test_padZero_goes_on : after (step (padAt .padZero .hash 54 3)) (fun u => decide (u.pbuf = [(54, 0x00#8)] ∧ u.ptr = 55 ∧ u.phase = .padZero)) = true := by decide

theorem test_padLen_hash : after (step (padAt .padLen .hash 56 3)) (fun u => decide (u.readBytes .pbuf 56 8 = [0, 0, 0, 0, 0, 0, 0, 0x18#8] ∧ u.ptr = 64 ∧ u.plen = 64 ∧ u.phase = .cmpChk ∧ u.done = false)) = true := by decide

theorem test_padLen_pad : after (step (padAt .padLen .pad 120 56)) (fun u => decide (u.readBytes .pbuf 120 8 = [0, 0, 0, 0, 0, 0, 0x01#8, 0xc0#8] ∧ u.plen = 128 ∧ u.phase = .idle ∧ u.done = true)) = true := by decide

theorem test_cmpChk_faults : after (step (cmpAt .cmpChk .compress 0 0 65)) (fun u => decide (u.phase = .fault ∧ u.err = .invalidInputLength ∧ u.status = 0x04#8)) = true := by decide

theorem test_cmpChk_passes : after (step (cmpAt .cmpChk .compress 0 0 64)) (fun u => decide (u.phase = .accIv ∧ u.err = .none)) = true := by decide

theorem test_accIv_first_block : after (step { cmpAt .accIv .hash 3 0 64 with h := words8 fun _ => 0 }) (fun u => decide (u.h = ivTable ∧ u.blk = 0 ∧ u.phase = .msxLoad)) = true := by decide

theorem test_accIv_zero_blocks : after (step (cmpAt .accIv .compress 0 0 0)) (fun u => decide (u.h = ivTable ∧ u.phase = .idle ∧ u.done = true)) = true := by decide

theorem test_msxLoad_first : after (step { cmpAt .msxLoad .hash 0 0 64 with pbuf := cells 0 [0x61#8, 0x62#8, 0x63#8, 0x80#8] }) (fun u => decide (u.wAt 0 = 0x61626380 ∧ u.t = 1 ∧ u.phase = .msxLoad)) = true := by decide

theorem test_msxLoad_last : after (step { cmpAt .msxLoad .compress 1 15 128 with pbuf := cells 124 [0x00#8, 0x00#8, 0x01#8, 0xc0#8] }) (fun u => decide (u.wAt 15 = 0x000001c0 ∧ u.t = 16 ∧ u.phase = .msxExp)) = true := by decide

theorem test_msxExp_second : after (step { cmpAt .msxExp .hash 0 17 64 with w := words64 fun i => if i = 15 then 0x18 else 0 }) (fun u => decide (u.wAt 17 = 0x000f0000 ∧ u.t = 18 ∧ u.phase = .msxExp)) = true := by decide

theorem test_msxExp_last : after (step (cmpAt .msxExp .hash 0 63 64)) (fun u => decide (u.wAt 63 = 0 ∧ u.t = 0 ∧ u.phase = .rndInit)) = true := by decide

theorem test_rndInit : after (step (cmpAt .rndInit .hash 0 0 64)) (fun u => decide (u.v = ivTable ∧ u.h = ivTable ∧ u.phase = .rndStep)) = true := by decide

theorem test_rndStep_round0 : after (step { cmpAt .rndStep .hash 0 0 64 with v := ivTable, w := words64 fun i => if i = 0 then 0x61626380 else 0 }) (fun u => decide (u.v[0] = 0x5d6aebcd ∧ u.v[4] = 0xfa2a4622 ∧ u.v[7] = 0x1f83d9ab ∧ u.t = 1)) = true := by decide

theorem test_rndStep_last : after (step (cmpAt .rndStep .hash 0 63 64)) (fun u => decide (u.phase = .accAdd ∧ u.t = 0 ∧ u.v[1] = 0)) = true := by decide

theorem test_accAdd_last_block : after (step { cmpAt .accAdd .hash 0 0 64 with
      v := #v[0x506e3058#32, 0xd39a2165#32, 0x04d24d6c#32, 0xb85e2ce9#32, 0x5ef50f24#32, 0xfb121210#32, 0x948d25b6#32, 0x961f4894#32] }) (fun u => decide (u.h[0] = 0xba7816bf ∧ u.h[1] = 0x8f01cfea ∧ u.h[7] = 0xf20015ad ∧ u.blk = 1 ∧ u.phase = .hexEnc)) = true := by decide

theorem test_accAdd_next_block : after (step { cmpAt .accAdd .compress 0 0 128 with
      v := #v[0x506e3058#32, 0xd39a2165#32, 0x04d24d6c#32, 0xb85e2ce9#32, 0x5ef50f24#32, 0xfb121210#32, 0x948d25b6#32, 0x961f4894#32] }) (fun u => decide (u.phase = .msxLoad ∧ u.blk = 1 ∧ u.done = false)) = true := by decide

theorem test_hexEnc_first : after (step { hexAt .encode 0 with h := #v[0xba7816bf#32, 0, 0, 0, 0, 0, 0, 0] }) (fun u => decide (u.readBytes .hex 0 8 = asciiBytes "ba7816bf" ∧ u.t = 1 ∧ u.phase = .hexEnc)) = true := by decide

theorem test_hexEnc_last : after (step (hexAt .encode 7)) (fun u => decide (u.readBytes .hex 56 8 = asciiBytes "5be0cd19" ∧ u.t = 0 ∧ u.phase = .idle ∧ u.done = true)) = true := by decide

/-- The reserved code stops the machine by name (93_implementation_defined.md U5). -/
theorem test_reserved14_stuck : step { base with phase := .reserved14 } = .fault .stuckReservedPhase := rfl

/-- MSX.EXP with T = 3, the example of 93_implementation_defined.md U7, is refused by name. -/
theorem test_msxExp_outside_invariants : step (cmpAt .msxExp .hash 0 3 64) = .refused (.outsideInvariants .msxExp) := rfl

/-- The sequencer's turn in FAULT changes nothing. -/
theorem test_fault_waits : step (faulted .inputTooLarge) = .next (faulted .inputTooLarge) := rfl

/-! ## Scripts (30_encoding.md rules R101, R102) -/

theorem test_script_loadMsg : scriptEvents [.loadMsg (asciiBytes "abc"), .cmd .hash] =
    [.access 0x3000000000000000000000061#98, .access 0x3000000010000000000000062#98, .access 0x3000000020000000000000063#98,
      .access 0x2800000000000000000000003#98, .access 0x2000000000000000000000001#98] := by
  decide

theorem test_script_text : ScriptLine.text (.wrMsg 2 0x63) = "WR MSG[2], 99" ∧ ScriptLine.text .rdStatus = "RD STATUS" := by
  decide +kernel

/-! ## Words placed at the fetch -/

theorem test_placed_access : after (step (State.reset.withFetchWord 98 0x2c00000000000000000000041)) (fun u => decide (u.plen = 65)) = true := by decide

theorem test_placed_phase : after (step (State.reset.withFetchWord 4 0b0011)) (fun u => decide (u.readByte .pbuf 0 = 0x80#8 ∧ u.phase = .padZero)) = true := by decide

/-! ## Witnesses: for every obligation with hypotheses, a state and operands that meet them, clause by clause -/

/-- The first invariant state: power-on reset. -/
theorem test_reset_inv : State.reset.Inv where
  legal := by decide
  notReserved := by decide
  padStart := by decide
  padSize := by decide
  padZeros := by decide
  padEnd := by decide
  checked := by decide
  hashLength := by decide
  hexCodes := by decide
  msgForm := by decide
  pbufForm := by decide
  hexForm := by decide

/-- A state of the invariant in CMP_CHK under HASH. -/
theorem test_cmpChk_inv : (cmpAt .cmpChk .hash 0 0 64).Inv where
  legal := by decide
  notReserved := by decide
  padStart := by decide
  padSize := by decide
  padZeros := by decide
  padEnd := by decide
  checked := by decide
  hashLength := by decide
  hexCodes := by decide
  msgForm := by decide
  pbufForm := by decide
  hexForm := by decide

/-- A state of the invariant in the middle of the padding. -/
theorem test_padZero_inv : (padAt .padZero .pad 119 56).Inv where
  legal := by decide
  notReserved := by decide
  padStart := by decide
  padSize := by decide
  padZeros := by decide
  padEnd := by decide
  checked := by decide
  hashLength := by decide
  hexCodes := by decide
  msgForm := by decide
  pbufForm := by decide
  hexForm := by decide

theorem test_hyp_MatchingBitsDecodeToTheRow : (Encoded.cmd 0b111#3).nbits = (Instr.rst).tableRow.nbits ∧
    (Encoded.cmd 0b111#3).bits &&& (Instr.rst).tableRow.mask = (Instr.rst).tableRow.pattern ∧
    (Encoded.phase 0b1111#4).nbits = (Instr.fault).tableRow.nbits ∧
    (Encoded.phase 0b1111#4).bits &&& (Instr.fault).tableRow.mask = (Instr.fault).tableRow.pattern ∧
    (Encoded.acc 0x34000000000000000000000ee#98).nbits = (Instr.wrPbuf 1 2).tableRow.nbits ∧
    (Encoded.acc 0x34000000000000000000000ee#98).bits &&& (Instr.wrPbuf 1 2).tableRow.mask = (Instr.wrPbuf 1 2).tableRow.pattern := by decide

theorem test_hyp_TableWordRoundTrip : (encode (.wrHex 0x3fffffff 0xffffffffffffffff)).nbits = 98 := by decide

theorem test_hyp_StepRunsTheDecodedInstruction : base.pending = [] ∧ (withEvent .sequencer base).pending = .sequencer :: [] ∧
    (withEvent (.access 0x0400000000000000000000000#98) base).pending = .access 0x0400000000000000000000000#98 :: [] ∧
    (withEvent (.command 1#3) base).pending = .command 1#3 :: [] ∧ (withEvent .resetInput base).pending = .resetInput :: [] := by decide

theorem test_hyp_CommandDecodeAndAcceptance : (0xffffffffffffffff#64).toNat % 8 = 7 ∧
    (1 ≤ (1#64).toNat % 8 ∧ (1#64).toNat % 8 ≤ 4 ∧ base.phase = .idle) ∧
    (1 ≤ (4#64).toNat % 8 ∧ (4#64).toNat % 8 ≤ 4 ∧ base.phase = .idle) ∧
    ((0#64).toNat % 8 ≠ 7 ∧ ¬ (1 ≤ (0#64).toNat % 8 ∧ (0#64).toNat % 8 ≤ 4 ∧ base.phase = .idle)) ∧
    ((5#64).toNat % 8 ≠ 7 ∧ ¬ (1 ≤ (5#64).toNat % 8 ∧ (5#64).toNat % 8 ≤ 4 ∧ base.phase = .idle)) ∧
    ((4#64).toNat % 8 ≠ 7 ∧ ¬ (1 ≤ (4#64).toNat % 8 ∧ (4#64).toNat % 8 ≤ 4 ∧ (faulted .inputTooLarge).phase = .idle)) := by decide

theorem test_hyp_WorkingCommandsStartInIdleOnly : (Instr.encode, Mode.encode, Phase.hexEnc) ∈ [(Instr.hash, Mode.hash, Phase.padChk), (Instr.pad, Mode.pad, Phase.padChk),
      (Instr.compress, Mode.compress, Phase.cmpChk), (Instr.encode, Mode.encode, Phase.hexEnc)] ∧
    base.phase = .idle ∧ (faulted .inputTooLarge).phase ≠ .idle ∧ (hexAt .hash 7).phase ≠ .idle := by decide

theorem test_hyp_RowsThatChangeNothing : Instr.fault ∈ [Instr.nop, Instr.cmdReserved5, Instr.cmdReserved6, Instr.idle, Instr.fault] := by decide

theorem test_hyp_ResetEventFromBothTriggers : (withEvent .resetInput (hexAt .hash 7)).pending = .resetInput :: [] := by decide

/-- Idle and not idle: busy, and in FAULT, where BUSY is 0 too. -/
theorem test_hyp_writes_and_reads_in_idle : base.phase = .idle ∧ (hexAt .hash 7).phase ≠ .idle ∧ (faulted .inputTooLarge).phase ≠ .idle := by decide

theorem test_hyp_WrMsgWritesOneByte : (base.phase = .idle ∧ (0x1fffffff#30).toNat < 2 ^ 29) ∧ ¬ (base.phase = .idle ∧ (0x20000000#30).toNat < 2 ^ 29) ∧
    ¬ ((hexAt .hash 7).phase = .idle ∧ (0#30).toNat < 2 ^ 29) := by decide

theorem test_hyp_RdMsgReadsInIdle : (base.phase = .idle ∧ (0x1fffffff#30).toNat < 2 ^ 29) ∧ ¬ (base.phase = .idle ∧ (0x20000000#30).toNat < 2 ^ 29) ∧
    ¬ ((faulted .inputTooLarge).phase = .idle ∧ (0#30).toNat < 2 ^ 29) := by decide

theorem test_hyp_RdHAndRdHexReadInIdle : (base.phase = .idle ∧ (7#30).toNat < 8) ∧ ¬ (base.phase = .idle ∧ (8#30).toNat < 8) ∧
    (base.phase = .idle ∧ (63#30).toNat < 64) ∧ ¬ (base.phase = .idle ∧ (64#30).toNat < 64) := by decide

theorem test_hyp_RdStatusReturnsTheFlags : base.legal = true ∧ (faulted .inputTooLarge).legal = true ∧ (hexAt .hash 7).legal = true := by decide

theorem test_hyp_ReadsReplyOnceAndWriteNothing : (0x1c000003f0000000000000000#98).getLsbD 97 = false := by decide

theorem test_hyp_AccessWhileBusyChangesNothing : (hexAt .hash 7).busy = true ∧ (padAt .padChk .pad 0 0).busy = true ∧
    (0x2000000000000000000000007#98).extractLsb' 94 4 = 0b1000#4 ∧ (0x2000000000000000000000007#98).extractLsb' 0 3 = 7#3 := by
  decide

theorem test_hyp_PadChkChecksTheSize : 
    (padAt .padChk .hash 0 0x20000000).phase = .padChk ∧ (padAt .padChk .hash 0 0x20000000).legal = true ∧ 2 ^ 29 ≤ (padAt .padChk .hash 0 0x20000000).msgLen.toNat ∧
    (padAt .padChk .pad 0 0x1fffffff).phase = .padChk ∧ (padAt .padChk .pad 0 0x1fffffff).legal = true ∧ (padAt .padChk .pad 0 0x1fffffff).msgLen.toNat < 2 ^ 29 ∧
    (padAt .padChk .pad 0 0).phase = .padChk ∧ (padAt .padChk .pad 0 0).legal = true ∧ (padAt .padChk .pad 0 0).msgLen.toNat < 2 ^ 29 := by
  decide

theorem test_hyp_PadCopyCopiesOneByte : 
    (padAt .padCopy .hash 0 1).phase = .padCopy ∧ (padAt .padCopy .hash 0 1).legal = true ∧
    (padAt .padCopy .pad 0x1ffffffe 0x1fffffff).phase = .padCopy ∧ (padAt .padCopy .pad 0x1ffffffe 0x1fffffff).legal = true := by
  decide

theorem test_hyp_PadMarkAppendsTheMarker : 
    (padAt .padMark .hash 55 55).phase = .padMark ∧ (padAt .padMark .hash 55 55).legal = true ∧
    (padAt .padMark .pad 0x1fffffff 0x1fffffff).phase = .padMark ∧ (padAt .padMark .pad 0x1fffffff 0x1fffffff).legal = true := by
  decide

theorem test_hyp_PadZeroAppendsOneZero : 
    (padAt .padZero .hash 55 54).phase = .padZero ∧ (padAt .padZero .hash 55 54).legal = true ∧
    (padAt .padZero .pad 57 56).phase = .padZero ∧ (padAt .padZero .pad 57 56).legal = true := by
  decide

theorem test_hyp_PadLenAppendsTheLengthField : 
    (padAt .padLen .hash 0x20000038 0x1fffffff).phase = .padLen ∧ (padAt .padLen .hash 0x20000038 0x1fffffff).legal = true ∧ (padAt .padLen .hash 0x20000038 0x1fffffff).mode = .hash ∧
    (padAt .padLen .pad 56 0).phase = .padLen ∧ (padAt .padLen .pad 56 0).legal = true ∧ (padAt .padLen .pad 56 0).mode ≠ .hash := by
  decide

theorem test_hyp_MsxLoadLoadsOneWord : 
    (cmpAt .msxLoad .hash 0 14 64).phase = .msxLoad ∧ (cmpAt .msxLoad .hash 0 14 64).legal = true ∧ (cmpAt .msxLoad .hash 0 14 64).t.toNat < 15 ∧
    (cmpAt .msxLoad .compress 0xfffffe 15 0x3fffffc0).phase = .msxLoad ∧ (cmpAt .msxLoad .compress 0xfffffe 15 0x3fffffc0).legal = true ∧ (cmpAt .msxLoad .compress 0xfffffe 15 0x3fffffc0).t.toNat = 15 := by
  decide

theorem test_hyp_MsxExpDerivesOneWord : 
    (cmpAt .msxExp .hash 0 16 64).phase = .msxExp ∧ (cmpAt .msxExp .hash 0 16 64).legal = true ∧ (cmpAt .msxExp .hash 0 16 64).t.toNat < 63 ∧
    (cmpAt .msxExp .hash 0 62 64).phase = .msxExp ∧ (cmpAt .msxExp .hash 0 62 64).legal = true ∧ (cmpAt .msxExp .hash 0 62 64).t.toNat < 63 ∧
    (cmpAt .msxExp .compress 0 63 64).phase = .msxExp ∧ (cmpAt .msxExp .compress 0 63 64).legal = true ∧ (cmpAt .msxExp .compress 0 63 64).t.toNat = 63 := by
  decide

theorem test_hyp_RndInitLoadsTheWorkingVariables : 
    (cmpAt .rndInit .hash 0 0 64).phase = .rndInit ∧ (cmpAt .rndInit .hash 0 0 64).legal = true := by
  decide

theorem test_hyp_RndStepAppliesOneRound : 
    (cmpAt .rndStep .hash 0 62 64).phase = .rndStep ∧ (cmpAt .rndStep .hash 0 62 64).legal = true ∧ (cmpAt .rndStep .hash 0 62 64).t.toNat < 63 ∧
    (cmpAt .rndStep .compress 0 63 64).phase = .rndStep ∧ (cmpAt .rndStep .compress 0 63 64).legal = true ∧ (cmpAt .rndStep .compress 0 63 64).t.toNat = 63 := by
  decide

theorem test_hyp_CmpChkChecksTheLength : 
    (cmpAt .cmpChk .compress 0 0 63).phase = .cmpChk ∧ (cmpAt .cmpChk .compress 0 0 63).legal = true ∧ (cmpAt .cmpChk .compress 0 0 63).plen.toNat % 64 ≠ 0 ∧
    (cmpAt .cmpChk .compress 0 0 0x3fffffc0).phase = .cmpChk ∧ (cmpAt .cmpChk .compress 0 0 0x3fffffc0).legal = true ∧ (cmpAt .cmpChk .compress 0 0 0x3fffffc0).plen.toNat % 64 = 0 ∧
    (cmpAt .cmpChk .compress 0 0 0).phase = .cmpChk ∧ (cmpAt .cmpChk .compress 0 0 0).legal = true ∧ (cmpAt .cmpChk .compress 0 0 0).plen.toNat % 64 = 0 := by
  decide

/-- The clause of CMP.CHK under HASH. -/
theorem test_hyp_CmpChkChecksTheLength_hash : (cmpAt .cmpChk .hash 0 0 64).Inv ∧ (cmpAt .cmpChk .hash 0 0 64).mode = .hash := ⟨test_cmpChk_inv, rfl⟩

theorem test_hyp_AccIvSetsTheInitialConstants : 
    (cmpAt .accIv .hash 0 0 64).phase = .accIv ∧ (cmpAt .accIv .hash 0 0 64).legal = true ∧ 0 < (cmpAt .accIv .hash 0 0 64).plen.toNat ∧
    (cmpAt .accIv .hash 0 0 0).phase = .accIv ∧ (cmpAt .accIv .hash 0 0 0).legal = true ∧ (cmpAt .accIv .hash 0 0 0).plen.toNat = 0 ∧ (cmpAt .accIv .hash 0 0 0).mode = .hash ∧
    (cmpAt .accIv .compress 0 0 0).phase = .accIv ∧ (cmpAt .accIv .compress 0 0 0).legal = true ∧ (cmpAt .accIv .compress 0 0 0).plen.toNat = 0 ∧ (cmpAt .accIv .compress 0 0 0).mode ≠ .hash := by
  decide

theorem test_hyp_AccAddMixesTheBlockIn : 
    (cmpAt .accAdd .hash 0 0 128).phase = .accAdd ∧ (cmpAt .accAdd .hash 0 0 128).legal = true ∧ 64 * ((cmpAt .accAdd .hash 0 0 128).blk.toNat + 1) < (cmpAt .accAdd .hash 0 0 128).plen.toNat ∧
    (cmpAt .accAdd .hash 1 0 128).phase = .accAdd ∧ (cmpAt .accAdd .hash 1 0 128).legal = true ∧ (cmpAt .accAdd .hash 1 0 128).plen.toNat ≤ 64 * ((cmpAt .accAdd .hash 1 0 128).blk.toNat + 1) ∧ (cmpAt .accAdd .hash 1 0 128).mode = .hash ∧
    (cmpAt .accAdd .compress 0xfffffe 0 0x3fffffc0).phase = .accAdd ∧ (cmpAt .accAdd .compress 0xfffffe 0 0x3fffffc0).legal = true ∧ (cmpAt .accAdd .compress 0xfffffe 0 0x3fffffc0).plen.toNat ≤ 64 * ((cmpAt .accAdd .compress 0xfffffe 0 0x3fffffc0).blk.toNat + 1) ∧ (cmpAt .accAdd .compress 0xfffffe 0 0x3fffffc0).mode ≠ .hash := by
  decide

theorem test_hyp_HexEncEncodesOneWord : 
    (hexAt .hash 6).phase = .hexEnc ∧ (hexAt .hash 6).legal = true ∧ (hexAt .hash 6).t.toNat < 7 ∧
    (hexAt .encode 7).phase = .hexEnc ∧ (hexAt .encode 7).legal = true ∧ (hexAt .encode 7).t.toNat = 7 := by
  decide

theorem test_hyp_MicroOperationRefusedOutsideInvariants : ¬ (base.phase = .padCopy ∧ base.legal = true) ∧
    ¬ ((cmpAt .msxExp .hash 0 3 64).phase = .msxExp ∧ (cmpAt .msxExp .hash 0 3 64).legal = true) := by decide

/-- Each register file is changed by an instruction that owns it. -/
theorem test_hyp_RegisterFilesHaveOneWriter : after (exec .accIv { cmpAt .accIv .hash 0 0 64 with h := words8 fun _ => 0 }) (fun u => decide (u.h ≠ words8 fun _ => 0)) = true ∧
    after (exec .rndInit (cmpAt .rndInit .hash 0 0 64)) (fun u => decide (u.v ≠ (cmpAt .rndInit .hash 0 0 64).v)) = true ∧
    after (exec .msxLoad { cmpAt .msxLoad .hash 0 0 64 with pbuf := cells 0 [1, 2, 3, 4] }) (fun u => decide (u.w ≠ base.w)) = true ∧
    after (exec .hexEnc (hexAt .encode 0)) (fun u => decide (u.hex ≠ base.hex)) = true ∧
    after (exec (.wrMsgLen 0 3) base) (fun u => decide (u.msgLen ≠ base.msgLen)) = true ∧
    after (exec .rst (padAt .padCopy .hash 1 3)) (fun u => decide (u.msgLen ≠ (padAt .padCopy .hash 1 3).msgLen)) = true := by
  decide

theorem test_hyp_MemoriesHaveTheirWriters : after (exec (.wrMsg 0 1) base) (fun u => decide (u.msg ≠ base.msg)) = true ∧
    after (exec (.wrPbuf 0 1) base) (fun u => decide (u.pbuf ≠ base.pbuf)) = true ∧
    after (exec .padZero (padAt .padZero .hash 55 54)) (fun u => decide (u.pbuf ≠ base.pbuf)) = true ∧
    after (exec (.wrPlen 0 64) base) (fun u => decide (u.plen ≠ base.plen)) = true ∧
    after (exec .padLen (padAt .padLen .pad 56 0)) (fun u => decide (u.plen ≠ base.plen)) = true := by
  decide

theorem test_hyp_FaultIsLeftOnlyByReset : (faulted .inputTooLarge).phase = .fault ∧ (withEvent .resetInput (faulted .inputTooLarge)).phase = .fault ∧
    (withEvent (.command 7#3) (faulted .invalidInputLength)).phase = .fault := by decide

theorem test_hyp_EveryStepKeepsTheInvariant : (State.reset.Inv ∧ step State.reset = .next State.reset) ∧
    ((padAt .padZero .pad 119 56).Inv ∧ ∃ u, step (padAt .padZero .pad 119 56) = .next u ∧ u.phase = .padLen) := ⟨⟨test_reset_inv, rfl⟩, test_padZero_inv, _, rfl, by decide⟩

theorem test_hyp_EveryStepOfARunAnswersNext : (padAt .padZero .pad 119 56).Inv := test_padZero_inv

theorem test_hyp_ReachableStatesMeetR42 : ∃ s, runSteps 2 { State.reset with pending := [.command 1#3] } = .next s ∧ s.phase = .padMark := ⟨_, rfl, by decide⟩

/-- The clauses of R42 are about phases that a run reaches or that the invariants allow: one state of each. -/
theorem test_hyp_ReachableStatesMeetR42_clauses : (faulted .inputTooLarge).legal = true ∧ ({ base with done := true } : State).legal = true ∧ (padAt .padCopy .hash 0 1).legal = true ∧
    (padAt .padMark .hash 0 0).legal = true ∧ (padAt .padZero .hash 1 0).legal = true ∧ (padAt .padLen .hash 56 0).legal = true ∧
    (cmpAt .msxLoad .hash 0 15 64).legal = true ∧ (cmpAt .msxExp .hash 0 63 64).legal = true ∧
    (cmpAt .rndStep .hash 0 63 64).legal = true ∧ (hexAt .hash 7).legal = true ∧ (cmpAt .accAdd .compress 0 0 64).legal = true ∧
    (cmpAt .cmpChk .compress 0 0 65).legal = true := by
  decide

theorem test_hyp_SequencerIgnoresTheHostsSide : SameBut [.pending, .replies, .draws] (hexAt .hash 7) { hexAt .hash 7 with pending := [.resetInput], draws := 5 } ∧
    ∃ u, exec Phase.hexEnc.instr (hexAt .hash 7) = .next u ∧ u.phase = .idle := ⟨by simp [sameBut_iff], _, rfl, by decide⟩

theorem test_hyp_WritesReachOnlyTheirOwnBytes : (0xffffffffffffffff : Nat) < 2 ^ 64 ∧ (Space.msg ≠ Space.pbuf) := by decide

theorem test_hyp_RotationMovesEveryBit : (0 < 1 ∧ 1 < 32 ∧ 0 < 32) ∧ (0 < 31 ∧ 31 < 32 ∧ 31 < 32) := by decide

theorem test_hyp_ScheduleIsTheRecurrence : (List.replicate 64 (0xff#8 : Byte)).length = 64 ∧ 15 < 16 ∧ 31 < 32 ∧ (16 ≤ 16 ∧ 16 < 64) ∧ (16 ≤ 63 ∧ 63 < 64) := by decide

theorem test_hyp_PaddedLengthIsTheLeastMultiple : ([] : List Byte).length < 2 ^ 29 ∧ (List.replicate (2 ^ 29 - 1) (0x61#8 : Byte)).length < 2 ^ 29 ∧
    2 ^ 29 ≤ (List.replicate (2 ^ 29) (0x61#8 : Byte)).length ∧ (64 % 64 = 0 ∧ 0 + 9 ≤ 64) := by
  refine ⟨by decide, ?_, ?_, by decide⟩
  · rw [List.length_replicate]
    decide
  · rw [List.length_replicate]

theorem test_hyp_PadIsInjective : ∃ p, padMessage [0x61#8] = some p ∧ p.length = 64 := ⟨_, rfl, by decide⟩

theorem test_hyp_EncodeHexIsInjective : (0x30#8 : Byte) ∈ encodeHex (words8 fun _ => 0) ∧ encodeHex ivTable = encodeHex ivTable := ⟨by decide, rfl⟩

theorem test_hyp_PadderRunPadsTheMessage : 
    (padAt .padChk .hash 0 0).phase = .padChk ∧ (padAt .padChk .hash 0 0).legal = true ∧ (padAt .padChk .hash 0 0).ptr = 0 ∧ (padAt .padChk .hash 0 0).pending = [] ∧ (padAt .padChk .hash 0 0).msgLen.toNat < 2 ^ 29 ∧ (padAt .padChk .hash 0 0).mode = .hash ∧
    (padAt .padChk .pad 0 0x1fffffff).phase = .padChk ∧ (padAt .padChk .pad 0 0x1fffffff).legal = true ∧ (padAt .padChk .pad 0 0x1fffffff).ptr = 0 ∧ (padAt .padChk .pad 0 0x1fffffff).pending = [] ∧ (padAt .padChk .pad 0 0x1fffffff).msgLen.toNat < 2 ^ 29 ∧ (padAt .padChk .pad 0 0x1fffffff).mode ≠ .hash := by
  decide

theorem test_hyp_ScheduleRunExpandsTheBlock : 
    (cmpAt .msxLoad .compress 0xfffffe 0 0x3fffffc0).phase = .msxLoad ∧ (cmpAt .msxLoad .compress 0xfffffe 0 0x3fffffc0).legal = true ∧ (cmpAt .msxLoad .compress 0xfffffe 0 0x3fffffc0).t = 0 ∧ (cmpAt .msxLoad .compress 0xfffffe 0 0x3fffffc0).pending = [] := by
  decide

theorem test_hyp_RoundRunAppliesSixtyFourRounds : 
    (cmpAt .rndInit .hash 0 0 64).phase = .rndInit ∧ (cmpAt .rndInit .hash 0 0 64).legal = true ∧ (cmpAt .rndInit .hash 0 0 64).pending = [] := by
  decide

theorem test_hyp_CompressorRunCompressesTheBuffer : 
    (cmpAt .cmpChk .hash 0 0 64).phase = .cmpChk ∧ (cmpAt .cmpChk .hash 0 0 64).legal = true ∧ (cmpAt .cmpChk .hash 0 0 64).pending = [] ∧ (cmpAt .cmpChk .hash 0 0 64).plen.toNat % 64 = 0 ∧ (cmpAt .cmpChk .hash 0 0 64).mode = .hash ∧
    (cmpAt .cmpChk .compress 0 0 0).phase = .cmpChk ∧ (cmpAt .cmpChk .compress 0 0 0).legal = true ∧ (cmpAt .cmpChk .compress 0 0 0).pending = [] ∧ (cmpAt .cmpChk .compress 0 0 0).plen.toNat % 64 = 0 ∧ (cmpAt .cmpChk .compress 0 0 0).mode ≠ .hash ∧
    (cmpAt .cmpChk .compress 0 0 0x3fffffc0).phase = .cmpChk ∧ (cmpAt .cmpChk .compress 0 0 0x3fffffc0).legal = true ∧ (cmpAt .cmpChk .compress 0 0 0x3fffffc0).pending = [] ∧ (cmpAt .cmpChk .compress 0 0 0x3fffffc0).plen.toNat % 64 = 0 ∧ (cmpAt .cmpChk .compress 0 0 0x3fffffc0).mode ≠ .hash := by
  decide

theorem test_hyp_EncoderRunWritesTheHexDigest : 
    (hexAt .encode 0).phase = .hexEnc ∧ (hexAt .encode 0).legal = true ∧ (hexAt .encode 0).t = 0 ∧ (hexAt .encode 0).pending = [] := by
  decide

theorem test_hyp_HashCommandComputesSha256 : 
    (withEvent (.command 1#3) { base with msgLen := 0, plen := 0 }).phase = .idle ∧ (withEvent (.command 1#3) { base with msgLen := 0, plen := 0 }).legal = true ∧ (withEvent (.command 1#3) { base with msgLen := 0, plen := 0 }).pending = [.command 1#3] ∧ (withEvent (.command 1#3) { base with msgLen := 0, plen := 0 }).msgLen.toNat < 2 ^ 29 ∧
    (withEvent (.command 1#3) { base with msgLen := 0x1fffffff, plen := 65 }).phase = .idle ∧ (withEvent (.command 1#3) { base with msgLen := 0x1fffffff, plen := 65 }).legal = true ∧ (withEvent (.command 1#3) { base with msgLen := 0x1fffffff, plen := 65 }).pending = [.command 1#3] ∧ (withEvent (.command 1#3) { base with msgLen := 0x1fffffff, plen := 65 }).msgLen.toNat < 2 ^ 29 := by
  decide

theorem test_hyp_RefusedCommandLeavesTheData : 
    (withEvent (.command 1#3) { base with msgLen := 0x20000000, plen := 64 }).phase = .idle ∧ (withEvent (.command 1#3) { base with msgLen := 0x20000000, plen := 64 }).legal = true ∧ (withEvent (.command 1#3) { base with msgLen := 0x20000000, plen := 64 }).pending = [.command 1#3] ∧ 2 ^ 29 ≤ (withEvent (.command 1#3) { base with msgLen := 0x20000000, plen := 64 }).msgLen.toNat ∧
    (withEvent (.command 2#3) { base with msgLen := 0xffffffffffffffff, plen := 64 }).phase = .idle ∧ (withEvent (.command 2#3) { base with msgLen := 0xffffffffffffffff, plen := 64 }).legal = true ∧ (withEvent (.command 2#3) { base with msgLen := 0xffffffffffffffff, plen := 64 }).pending = [.command 2#3] ∧ 2 ^ 29 ≤ (withEvent (.command 2#3) { base with msgLen := 0xffffffffffffffff, plen := 64 }).msgLen.toNat ∧
    (withEvent (.command 3#3) { base with msgLen := 0, plen := 63 }).phase = .idle ∧ (withEvent (.command 3#3) { base with msgLen := 0, plen := 63 }).legal = true ∧ (withEvent (.command 3#3) { base with msgLen := 0, plen := 63 }).pending = [.command 3#3] ∧ (withEvent (.command 3#3) { base with msgLen := 0, plen := 63 }).plen.toNat % 64 ≠ 0 := by
  decide

end Sys2Proof.Tests
end

namespace Sys2Proof.Machine

/-! ## Rotation (00_scope.md rule R7) -/

/-- Below the word size the model's rotation is the library's, so the library's lemmas about bits apply to it. -/
theorem rotr_eq_rotateRight (x : Word) {n : Nat} (hn : n < 32) : rotr x n = x.rotateRight n :=
  (BitVec.rotateRight_eq_rotateRightAux_of_lt hn).symm

/-- Bits below `32 - n` come from `n` places up; the rest wrap round to the low bits of `x`. -/
theorem getLsbD_rotr (x : Word) {n i : Nat} (hn : n < 32) (hi : i < 32) :
    (rotr x n).getLsbD i = x.getLsbD ((i + n) % 32) := by
  rw [rotr_eq_rotateRight x hn, BitVec.getLsbD_rotateRight_of_lt hn]
  by_cases hlow : i < 32 - n
  · have hindex : (i + n) % 32 = n + i := by omega
    simp [hlow, hindex]
  · have hindex : (i + n) % 32 = i - (32 - n) := by omega
    simp [hlow, hi, hindex]

theorem toNat_rotr (x : Word) (n : Nat) :
    (rotr x n).toNat = x.toNat / 2 ^ n ||| (x.toNat * 2 ^ (32 - n)) % 2 ^ 32 := by
  simp only [rotr, BitVec.toNat_or, BitVec.toNat_ushiftRight, BitVec.toNat_shiftLeft,
    Nat.shiftRight_eq_div_pow, Nat.shiftLeft_eq]

/-- Settles O47: the bits by the library's rotation, the value by the two shifts of rule R7. -/
theorem rotationMovesEveryBit : Obligations.RotationMovesEveryBit :=
  fun x n _ _ hn hi => ⟨getLsbD_rotr x hn hi, toNat_rotr x n⟩

end Sys2Proof.Machine

namespace Sys2Proof.Machine

/-! ## What an instruction can change -/

/-- The control registers, which the reset event writes (10_state.md rule R43). -/
def controlFields : List Field :=
  [.phase, .mode, .ptr, .blk, .t, .done, .err, .msgLen, .plen]

/-- What an accepted working command writes (45_host_commands.md rule R200). -/
def startFields : List Field :=
  [.mode, .done, .ptr, .blk, .t, .phase]

/-- What a command can change in PHASE `p`: a working command starts the sequencer in IDLE alone, RST resets
(45_host_commands.md rules R200 to R206). -/
def commandWrites (c : Command) (p : Phase) : List Field :=
  match c with
  | .hash | .pad | .compress | .encode => if p = .idle then startFields else []
  | .rst => controlFields
  | .nop | .reserved5 | .reserved6 => []

/-- What an instruction can change when it runs in PHASE `p`: the writers of every field, in one table. -/
def instrWrites (i : Instr) (p : Phase) : List Field :=
  match i with
  | .nop | .cmdReserved5 | .cmdReserved6 | .idle | .phaseReserved14 | .fault => []
  | .hash => commandWrites .hash p
  | .pad => commandWrites .pad p
  | .compress => commandWrites .compress p
  | .encode => commandWrites .encode p
  | .rst => commandWrites .rst p
  | .padChk | .cmpChk => [.err, .phase]
  | .padCopy | .padMark | .padZero => [.pbuf, .ptr, .phase]
  | .padLen => [.pbuf, .ptr, .plen, .done, .phase]
  | .accIv | .accAdd => [.h, .blk, .t, .done, .phase]
  | .msxLoad | .msxExp => [.w, .t, .phase]
  | .rndInit | .rndStep => [.v, .t, .phase]
  | .hexEnc => [.hex, .t, .done, .phase]
  | .wrCmd _ data => commandWrites (commandOf data) p
  | .wrMsgLen _ _ => if p = .idle then [.msgLen] else []
  | .wrPlen _ _ => if p = .idle then [.plen] else []
  | .wrMsg _ _ => if p = .idle then [.msg] else []
  | .wrPbuf _ _ => if p = .idle then [.pbuf] else []
  | .wrStatus _ _ | .wrH _ _ | .wrHex _ _ => []
  | .rdCmd _ _ | .rdStatus _ _ | .rdMsgLen _ _ | .rdPlen _ _ => [.replies]
  | .rdMsg _ _ | .rdPbuf _ _ | .rdH _ _ | .rdHex _ _ => [.replies, .draws]

theorem mem_commandWrites {f : Field} {c : Command} {p : Phase} (hf : f ∈ commandWrites c p) :
    (c = .rst ∧ f ∈ controlFields) ∨ (p = .idle ∧ f ∈ startFields) := by
  cases c with
  | nop | reserved5 | reserved6 => cases hf
  | hash | pad | compress | encode => simpa [commandWrites] using hf
  | rst => exact Or.inl ⟨rfl, hf⟩

/-- What a micro-operation changes is what its effect changes. -/
theorem State.microOp_frame {changed : List Field} {s after u : State} {p : Phase}
    (h : s.microOp p after = .next u) (hf : SameBut changed s after) : SameBut changed s u := by
  obtain ⟨-, rfl⟩ := (State.microOp_next s after u p).1 h
  exact hf

theorem startCommand_frame {m : Mode} {p : Phase} {s u : State} (h : startCommand m p s = .next u) :
    SameBut (if s.phase = .idle then startFields else []) s u := by
  rw [startCommand_eq] at h
  obtain rfl := Host.Outcome.next.inj h
  split <;> simp [sameBut_iff, startFields]

theorem runCommand_frame {c : Command} {s u : State} (h : runCommand c s = .next u) : SameBut (commandWrites c s.phase) s u := by
  cases c with
  | nop | reserved5 | reserved6 => cases h; exact SameBut.refl _ _
  | hash | pad | compress | encode => exact startCommand_frame h
  | rst => cases h; simp [sameBut_iff, commandWrites, controlFields]

theorem writeWindow_frame {sp : Space} {field : Field} {addr : BitVec 30} {data : BitVec 64} {s u : State}
    (hsp : ∀ a b, SameBut [field] s (s.writeByte sp a b)) (h : writeWindow sp addr data s = .next u) :
    SameBut (if s.phase = .idle then [field] else []) s u := by
  rw [writeWindow_eq] at h
  obtain rfl := Host.Outcome.next.inj h
  by_cases hp : s.phase = .idle
  · rw [if_pos hp]
    split
    · exact hsp _ _
    · exact SameBut.refl _ _
  · rw [if_neg hp, if_neg fun hw => hp hw.1]
    exact SameBut.refl _ _

theorem readWindow_frame {sel : BitVec 3} {addr : BitVec 30} {size : Nat} {value : BitVec 64} {s u : State}
    (h : readWindow sel addr size value s = .next u) : SameBut [.replies, .draws] s u := by
  rw [readWindow_eq] at h
  obtain rfl := Host.Outcome.next.inj h
  split <;> simp [sameBut_iff]

/-- Whatever instruction runs, it changes nothing outside its row of the table. -/
theorem exec_frame {i : Instr} {s u : State} (h : exec i s = .next u) : SameBut (instrWrites i s.phase) s u := by
  cases i with
  | nop | cmdReserved5 | cmdReserved6 | idle | fault | wrStatus | wrH | wrHex => cases h; exact SameBut.refl _ _
  | phaseReserved14 => cases h
  | hash | pad | compress | encode => exact startCommand_frame h
  | rst => exact runCommand_frame (c := .rst) h
  | wrCmd addr data => exact runCommand_frame h
  | padChk | cmpChk | padLen | accIv | accAdd | msxLoad | msxExp | rndStep | hexEnc =>
    refine State.microOp_frame h ?_
    split_ifs <;> simp [sameBut_iff, instrWrites]
  | padCopy | padMark | padZero | rndInit =>
    exact State.microOp_frame h (by simp [sameBut_iff, instrWrites])
  | rdCmd | rdStatus | rdMsgLen | rdPlen => cases h; simp [sameBut_iff, instrWrites]
  | wrMsgLen | wrPlen =>
    simp only [exec, execWrMsgLen, execWrPlen] at h
    split at h <;> cases h <;> simp [sameBut_iff, instrWrites, *]
  | wrMsg => exact writeWindow_frame (field := .msg) (by simp [sameBut_iff]) h
  | wrPbuf => exact writeWindow_frame (field := .pbuf) (by simp [sameBut_iff]) h
  | rdMsg | rdPbuf | rdH | rdHex => exact readWindow_frame h


/-! ## The writers of the register files and of the memories -/

theorem ofCode_eq_rst_iff (code : BitVec 3) : Command.ofCode code = .rst ↔ code = 7#3 := by
  revert code
  decide

/-- The code of a WR.CMD is in the low three bits of its data (30_encoding.md rule R94). -/
theorem commandOf_eq_rst_iff (data : BitVec 64) : commandOf data = .rst ↔ data.toNat % 8 = 7 := by
  rw [commandOf, ofCode_eq_rst_iff, ← BitVec.toNat_inj]
  simp

/-- Which instruction owns a field in PHASE `p`: `instrWrites` read field by field, for the fields that few instructions write
(10_state.md rules R20 to R29, 45_host_commands.md rule R206). -/
def Owns (i : Instr) (p : Phase) : Field → Prop
  | .h => i = .accIv ∨ i = .accAdd
  | .v => i = .rndInit ∨ i = .rndStep
  | .w => i = .msxLoad ∨ i = .msxExp
  | .hex => i = .hexEnc
  | .msgLen => (∃ a d, i = .wrMsgLen a d) ∨ i = .rst ∨ ∃ a d, i = .wrCmd a d ∧ d.toNat % 8 = 7
  | .msg => p = .idle ∧ ∃ a d, i = .wrMsg a d
  | .pbuf => i = .padCopy ∨ i = .padMark ∨ i = .padZero ∨ i = .padLen ∨ (p = .idle ∧ ∃ a d, i = .wrPbuf a d)
  | .plen => i = .padLen ∨ (p = .idle ∧ ∃ a d, i = .wrPlen a d) ∨ i = .rst ∨ ∃ a d, i = .wrCmd a d ∧ d.toNat % 8 = 7
  | _ => True

theorem owns_startFields (i : Instr) (p : Phase) : ∀ f ∈ startFields, Owns i p f := by
  simp [startFields, Owns]

theorem owns_of_mem_instrWrites (i : Instr) (p : Phase) : ∀ f ∈ instrWrites i p, Owns i p f := by
  cases i with
  | hash | pad | compress | encode =>
    simp only [instrWrites, commandWrites]
    split
    · exact owns_startFields _ p
    · simp
  | rst => simp [instrWrites, commandWrites, controlFields, Owns]
  | wrCmd addr data =>
    intro f hf
    obtain ⟨hc, hf⟩ | ⟨-, hf⟩ := mem_commandWrites (c := commandOf data) hf
    · have hcode := (commandOf_eq_rst_iff data).1 hc
      have hreset : ∀ g ∈ controlFields, Owns (.wrCmd addr data) p g := by simp [controlFields, Owns, hcode]
      exact hreset f hf
    · exact owns_startFields _ p f hf
  | wrMsgLen | wrPlen | wrMsg | wrPbuf =>
    simp only [instrWrites]
    split <;> simp_all [Owns]
  | _ => simp [instrWrites, Owns]

/-- A field that an instruction changed is one that it owns. -/
theorem owns_of_changed {i : Instr} {s u : State} (h : exec i s = .next u) (f : Field) (hf : ¬ Field.same f s u) :
    Owns i s.phase f :=
  owns_of_mem_instrWrites i s.phase f (not_imp_comm.1 (exec_frame h f) hf)

/-- Settles O38: each register file with its owner, from the table of writers. -/
theorem registerFilesHaveOneWriter : Obligations.RegisterFilesHaveOneWriter := fun _ _ _ h =>
  have owner := owns_of_changed h
  ⟨fun hc => owner .h hc.symm, fun hc => owner .v hc.symm, fun hc => owner .w hc.symm, fun hc => owner .hex hc.symm,
    fun hc => owner .msgLen hc.symm⟩

/-- Settles O39: each memory and PLEN with its owners, from the table of writers. -/
theorem memoriesHaveTheirWriters : Obligations.MemoriesHaveTheirWriters := fun _ _ _ h =>
  have owner := owns_of_changed h
  ⟨fun hc => owner .msg hc.symm, fun hc => owner .pbuf hc.symm, fun hc => owner .plen hc.symm⟩

/-! ## A micro-operation out of place (93_implementation_defined.md U7) -/

/-- Every phase but IDLE, FAULT and the reserved code names a micro-operation. -/
theorem exec_phase_instr {p : Phase} (hidle : p ≠ .idle) (hfault : p ≠ .fault) (hreserved : p ≠ .reserved14) (s : State) :
    ∃ after, exec p.instr s = s.microOp p after := by
  cases p with
  | idle => exact absurd rfl hidle
  | fault => exact absurd rfl hfault
  | reserved14 => exact absurd rfl hreserved
  | _ => exact ⟨_, rfl⟩

/-- Settles O37: every micro-operation goes through `State.microOp`, which refuses it there. -/
theorem microOperationRefusedOutsideInvariants : Obligations.MicroOperationRefusedOutsideInvariants := by
  intro p s hidle hfault hreserved hout
  obtain ⟨after, hexec⟩ := exec_phase_instr hidle hfault hreserved s
  rw [hexec, State.microOp_refused after hout]

/-! ## A fault is sticky (60_exceptions.md rules R245, R246) -/

/-- What the host's side holds, which a read changes in every PHASE (log entries 2, 3). -/
def replyFields : List Field :=
  [.replies, .draws]

/-- In FAULT only RST writes. -/
theorem commandWrites_fault {c : Command} (hc : c ≠ .rst) : commandWrites c .fault = [] := by
  cases c with
  | rst => exact absurd rfl hc
  | _ => rfl

/-- The header bits that select WR.CMD (30_encoding.md rule R92). -/
theorem header_of_bits : ∀ (wr : BitVec 1) (sel : BitVec 3), wr.getLsbD 0 = true → sel.getLsbD 2 = false →
    sel.getLsbD 1 = false → sel.getLsbD 0 = false → wr = 1#1 ∧ sel = 0#3 := by
  decide

/-- In FAULT an access writes only on the host's side, unless it is the WR.CMD of RST. -/
theorem instrWrites_access_fault (a : Access) :
    (∀ f ∈ instrWrites a.instr .fault, f ∈ replyFields) ∨
      (a.wr = 1#1 ∧ a.sel = 0#3 ∧ commandOf a.data = .rst ∧ a.instr = .wrCmd a.addr a.data) := by
  unfold Access.instr
  split
  case h_1 hwr h2 h1 h0 =>
    obtain ⟨hwr, hsel⟩ := header_of_bits a.wr a.sel hwr h2 h1 h0
    by_cases hc : commandOf a.data = .rst
    · exact Or.inr ⟨hwr, hsel, hc, rfl⟩
    · exact Or.inl (by simp [instrWrites, commandWrites_fault hc])
  all_goals exact Or.inl (by simp [instrWrites, replyFields])

/-- The header of a packed access is its `wr` bit above its `sel` bits (30_encoding.md rule R92). -/
theorem header_eq {word : BitVec 98} (hwr : word.extractLsb' 97 1 = 1#1) (hsel : word.extractLsb' 94 3 = 0#3) :
    word.extractLsb' 94 4 = 0b1000#4 := by
  simp only [← BitVec.toNat_inj, BitVec.extractLsb'_toNat, BitVec.toNat_ofNat, Nat.shiftRight_eq_div_pow] at hwr hsel ⊢
  omega

theorem code_of_data (word : BitVec 98) : (word.extractLsb' 0 64).extractLsb' 0 3 = word.extractLsb' 0 3 := by
  simp only [← BitVec.toNat_inj, BitVec.extractLsb'_toNat, Nat.shiftRight_eq_div_pow]
  omega

/-! ## Steps -/

theorem step_of_nextTurn {s taken : State} {e : Encoded} (h : s.nextTurn = (some e, taken)) :
    step s = exec (decode e) taken := by
  simp [step, h]

theorem exec_wrCmd_rst {data : BitVec 64} (hc : commandOf data = .rst) (addr : BitVec 30) (s : State) :
    exec (.wrCmd addr data) s = .next s.resetEvent := by
  simp [exec, execWrCmd, runCommand, execRst, hc]

/-- A turn whose instruction writes only on the host's side leaves everything the hardware holds. -/
theorem sameBut_of_turn {changed : List Field} {s u : State} {rest : List Event}
    (h : SameBut changed { s with pending := rest } u) (hsub : ∀ f ∈ changed, f ∈ replyFields) :
    SameBut [.pending, .replies, .draws] s u :=
  have htake : SameBut [.pending, .replies, .draws] s { s with pending := rest } := by simp [sameBut_iff]
  htake.trans (h.mono fun f hf => List.mem_cons_of_mem _ (hsub f hf))

/-- Settles O40: by whose turn it is; only the two triggers of the reset event write the hardware's state. -/
theorem faultIsLeftOnlyByReset : Obligations.FaultIsLeftOnlyByReset := by
  intro s hp
  rcases hq : s.pending with _ | ⟨event, rest⟩
  · have hstep : step s = .next s := by rw [step_of_nextTurn (State.nextTurn_nil hq), decode_phase_code, hp]; rfl
    exact ⟨s, hstep, Or.inl (SameBut.refl _ s)⟩
  cases event with
  | sequencer =>
    have hstep : step s = .next { s with pending := rest } := by
      rw [step_of_nextTurn (State.nextTurn_sequencer hq), decode_phase_code, hp]; rfl
    exact ⟨_, hstep, Or.inl (by simp [sameBut_iff])⟩
  | access word =>
    have hstep : step s = exec (Access.unpack word).instr { s with pending := rest } :=
      step_of_nextTurn (State.nextTurn_access hq)
    obtain hquiet | ⟨hwr, hsel, hc, hinstr⟩ := instrWrites_access_fault (Access.unpack word)
    · obtain ⟨u, hu⟩ := access_next (Access.unpack word) { s with pending := rest }
      exact ⟨u, hstep.trans hu, Or.inl (sameBut_of_turn (exec_frame hu) (by rwa [hp]))⟩
    · have hcode := (ofCode_eq_rst_iff _).1 hc
      rw [hinstr, exec_wrCmd_rst hc] at hstep
      exact ⟨_, hstep, Or.inr ⟨rfl, rfl, rfl, rfl, rfl, rest, Or.inr (Or.inr ⟨word, rfl, header_eq hwr hsel,
        (code_of_data word).symm.trans hcode⟩)⟩⟩
  | command code =>
    have hstep : step s = exec (Command.ofCode code).instr { s with pending := rest } :=
      step_of_nextTurn (State.nextTurn_command hq)
    by_cases hc : Command.ofCode code = .rst
    · rw [hc] at hstep
      obtain rfl := (ofCode_eq_rst_iff code).1 hc
      exact ⟨_, hstep, Or.inr ⟨rfl, rfl, rfl, rfl, rfl, rest, Or.inr (Or.inl rfl)⟩⟩
    · obtain ⟨u, hu⟩ := runCommand_next (Command.ofCode code) { s with pending := rest }
      exact ⟨u, hstep.trans ((runCommand_eq_exec _ _).symm.trans hu), Or.inl (sameBut_of_turn (runCommand_frame hu)
        (by simp [hp, commandWrites_fault hc]))⟩
  | resetInput =>
    have hstep : step s = .next { s with pending := rest }.resetEvent := by simp [step, State.nextTurn_resetInput hq]
    exact ⟨_, hstep, Or.inr ⟨rfl, rfl, rfl, rfl, rfl, rest, Or.inl rfl⟩⟩

end Sys2Proof.Machine

namespace Sys2Proof.Machine

/-! ## The invariant of every run, phase by phase -/

/-- A command is in progress and has met no fault (10_state.md rule R42 (a), (b)). -/
def State.Running (s : State) : Prop :=
  s.done = false ∧ s.err = .none

/-- The padder is at work (10_state.md rule R42 (d), (f)). -/
def State.Padding (s : State) : Prop :=
  s.Running ∧ s.t = 0 ∧ (s.mode = .hash ∨ s.mode = .pad)

/-- The compressor is at work (10_state.md rule R42 (f)). -/
def State.Compressing (s : State) : Prop :=
  s.Running ∧ (s.mode = .hash ∨ s.mode = .compress)

/-- The compressor is on a block of the buffer (10_state.md rule R42 (e)). -/
def State.OnBlock (s : State) : Prop :=
  s.Compressing ∧ s.plen.toNat % 64 = 0 ∧ 64 * s.blk.toNat + 64 ≤ s.plen.toNat

/-- What `State.Inv` says of the control registers, phase by phase. -/
def State.PhaseInv (s : State) : Prop :=
  match s.phase with
  | .idle => s.err = .none ∧ s.t = 0
  | .padChk => s.Padding ∧ s.ptr = 0
  | .padCopy => s.Padding ∧ s.msgLen.toNat < 2 ^ 29 ∧ s.ptr.toNat < s.msgLen.toNat
  | .padMark => s.Padding ∧ s.msgLen.toNat < 2 ^ 29 ∧ s.ptr.toNat = s.msgLen.toNat
  | .padZero => s.Padding ∧ s.msgLen.toNat < 2 ^ 29 ∧ s.msgLen.toNat < s.ptr.toNat ∧
      s.ptr.toNat ≤ s.msgLen.toNat + zeroBytes s.msgLen.toNat
  | .padLen => s.Padding ∧ s.msgLen.toNat < 2 ^ 29 ∧ s.ptr.toNat = s.msgLen.toNat + 1 + zeroBytes s.msgLen.toNat
  | .cmpChk => s.Compressing ∧ s.t = 0 ∧ (s.mode = .hash → s.plen.toNat % 64 = 0 ∧ 64 ≤ s.plen.toNat)
  | .accIv => s.Compressing ∧ s.t = 0 ∧ s.plen.toNat % 64 = 0 ∧ (s.mode = .hash → 64 ≤ s.plen.toNat)
  | .msxLoad => s.OnBlock ∧ s.t.toNat ≤ 15
  | .msxExp => s.OnBlock ∧ 16 ≤ s.t.toNat
  | .rndInit | .accAdd => s.OnBlock ∧ s.t = 0
  | .rndStep => s.OnBlock
  | .hexEnc => s.Running ∧ s.t.toNat ≤ 7 ∧ (s.mode = .hash ∨ s.mode = .encode)
  | .fault => s.done = false ∧ s.err ≠ .none ∧ s.t = 0
  | .reserved14 => False

/-- What `State.Inv` says of the memories. -/
def State.MemoryInv (s : State) : Prop :=
  Memory.onlyHexCodes s.hex = true ∧ Memory.wf .msg s.msg = true ∧ Memory.wf .pbuf s.pbuf = true ∧ Memory.wf .hex s.hex = true

theorem State.phaseInv_of_inv {s : State} (hs : s.Inv) : s.PhaseInv := by
  obtain ⟨hlegal, hreserved, hstart, hsize, hzeros, hend, hchecked, hhash, -⟩ := hs
  obtain ⟨hstatus, hpad, ht, hblock, hmode⟩ := s.legal_iff.1 hlegal
  simp only [statusLegal, Bool.and_eq_true, decide_eq_true_eq] at hstatus
  unfold padLegal at hpad
  unfold tLegal at ht
  unfold blockLegal at hblock
  unfold modeLegal at hmode
  unfold PhaseInv OnBlock Padding Compressing Running
  cases hp : s.phase <;> simp_all

/-- R42 (c) and R71: PTR counts the bytes written, so its ranges and its bound follow from the lengths. -/
theorem State.padLegal_of_phaseInv {s : State} (hs : s.PhaseInv) : s.padLegal = true := by
  cases hp : s.phase with
  | padCopy | padMark | padZero | padLen =>
    simp only [PhaseInv, hp, zeroBytes] at hs
    simp only [padLegal, ptrBounded, hp, Bool.and_eq_true, decide_eq_true_eq]
    omega
  | _ => simp only [padLegal, hp]

/-- The phases' part of the invariant implies R42 and R71. -/
theorem State.legal_of_phaseInv {s : State} (hs : s.PhaseInv) : s.legal = true := by
  have hpad := padLegal_of_phaseInv hs
  rw [legal_iff, statusLegal, tLegal, blockLegal, modeLegal]
  unfold PhaseInv OnBlock Padding Compressing Running at hs
  cases hp : s.phase <;> simp_all

theorem State.inv_of_phaseInv {s : State} (hs : s.PhaseInv) (hmem : s.MemoryInv) : s.Inv := by
  obtain ⟨hcodes, hmsg, hpbuf, hhex⟩ := hmem
  refine ⟨legal_of_phaseInv hs, ?notReserved, ?padStart, ?padSize, ?padZeros, ?padEnd, ?checked, ?hashLength, hcodes, hmsg, hpbuf,
    hhex⟩
  case padSize => rintro (hp | hp) <;> simp_all only [PhaseInv]
  case hashLength => rintro (hp | hp) hm <;> simp_all only [PhaseInv, forall_const, and_self]
  all_goals
    intro hp
    simp_all only [PhaseInv]

theorem State.inv_iff (s : State) : s.Inv ↔ s.PhaseInv ∧ s.MemoryInv :=
  ⟨fun hs => ⟨phaseInv_of_inv hs, hs.hexCodes, hs.msgForm, hs.pbufForm, hs.hexForm⟩, fun ⟨hs, hmem⟩ => inv_of_phaseInv hs hmem⟩

/-! ## The memories -/

section
variable {i : Instr} {s u : State}

/-- R71, the bound on PTR while the padder writes PBUF. -/
theorem ptr_bound_of_legal (hl : s.legal = true) (hp : s.phase ∈ [Phase.padCopy, .padMark, .padZero, .padLen]) :
    s.ptr.toNat + 8 ≤ 2 ^ 29 + 64 := by
  obtain ⟨-, hpad, -⟩ := s.legal_iff.1 hl
  simp only [List.mem_cons, List.not_mem_nil, or_false] at hp
  obtain hp | hp | hp | hp := hp <;>
    simp only [State.padLegal, State.ptrBounded, hp, Bool.and_eq_true, decide_eq_true_eq] at hpad <;> omega

/-- A byte at PTR keeps PBUF in canonical form. -/
theorem wf_write_ptr (b : Byte) (hl : s.legal = true) (hp : s.phase ∈ [Phase.padCopy, .padMark, .padZero, .padLen])
    (hwf : Memory.wf .pbuf s.pbuf = true) : Memory.wf .pbuf (Memory.write s.pbuf s.ptr.toNat b) = true := by
  have hbound := ptr_bound_of_legal hl hp
  exact Memory.wf_write b (by simp only [Config.spaceSize]; omega) hwf

theorem exec_msg_wf (h : exec i s = .next u) (hwf : Memory.wf .msg s.msg = true) : Memory.wf .msg u.msg = true := by
  by_cases hsame : s.msg = u.msg
  · rwa [← hsame]
  obtain ⟨-, addr, data, rfl⟩ := owns_of_changed h .msg hsame
  obtain rfl := Host.Outcome.next.inj ((writeWindow_eq ..).symm.trans h)
  split
  · exact Memory.wf_write _ (by tauto) hwf
  · exact hwf

theorem exec_pbuf_wf (h : exec i s = .next u) (hwf : Memory.wf .pbuf s.pbuf = true) : Memory.wf .pbuf u.pbuf = true := by
  by_cases hsame : s.pbuf = u.pbuf
  · rwa [← hsame]
  obtain rfl | rfl | rfl | rfl | ⟨-, addr, data, rfl⟩ := owns_of_changed h .pbuf hsame
  · obtain ⟨⟨hp, hl⟩, rfl⟩ := (State.microOp_next ..).1 h
    exact wf_write_ptr _ hl (by simp [hp]) hwf
  · obtain ⟨⟨hp, hl⟩, rfl⟩ := (State.microOp_next ..).1 h
    exact wf_write_ptr _ hl (by simp [hp]) hwf
  · obtain ⟨⟨hp, hl⟩, rfl⟩ := (State.microOp_next ..).1 h
    exact wf_write_ptr _ hl (by simp [hp]) hwf
  · obtain ⟨⟨hp, hl⟩, rfl⟩ := (State.microOp_next ..).1 h
    have hbound := ptr_bound_of_legal hl (by simp [hp])
    have hwritten : Memory.wf .pbuf s.appendLength.pbuf = true := by
      rw [State.appendLength_pbuf]
      exact State.wf_writeBytes s .pbuf _ _ (by simp only [length_bytesOf, Config.spaceSize]; omega) hwf
    split <;> exact hwritten
  · obtain rfl := Host.Outcome.next.inj ((writeWindow_eq ..).symm.trans h)
    split
    · exact Memory.wf_write _ (by tauto) hwf
    · exact hwf

theorem exec_hex_inv (h : exec i s = .next u) (hcodes : Memory.onlyHexCodes s.hex = true) (hwf : Memory.wf .hex s.hex = true) :
    Memory.onlyHexCodes u.hex = true ∧ Memory.wf .hex u.hex = true := by
  by_cases hsame : s.hex = u.hex
  · exact ⟨by rwa [← hsame], by rwa [← hsame]⟩
  obtain rfl := owns_of_changed h .hex hsame
  obtain ⟨⟨hp, hl⟩, rfl⟩ := (State.microOp_next ..).1 h
  obtain ⟨-, -, ht, -⟩ := s.legal_iff.1 hl
  simp only [State.tLegal, hp, decide_eq_true_eq] at ht
  have hwritten : Memory.onlyHexCodes s.wordEncoded.hex = true ∧ Memory.wf .hex s.wordEncoded.hex = true :=
    ⟨onlyHexCodes_writeBytes _ (isHexCode_hex8 _) hcodes,
      State.wf_writeBytes s .hex _ _ (by simp only [length_hex8, Config.spaceSize]; omega) hwf⟩
  split <;> exact hwritten

/-- Whatever instruction runs in whatever state, the memories stay as the invariant has them. -/
theorem exec_memoryInv (h : exec i s = .next u) (hs : s.MemoryInv) : u.MemoryInv := by
  obtain ⟨hcodes, hmsg, hpbuf, hhex⟩ := hs
  obtain ⟨hcodes', hhex'⟩ := exec_hex_inv h hcodes hhex
  exact ⟨hcodes', exec_msg_wf h hmsg, exec_pbuf_wf h hpbuf, hhex'⟩

/-! ## The control registers -/

/-- The phases' part of the invariant rests on the control registers alone. -/
theorem State.PhaseInv.of_sameBut (hs : s.PhaseInv) {changed : List Field} (h : SameBut changed s u)
    (hdata : ∀ f ∈ controlFields, f ∉ changed) : u.PhaseInv := by
  have hsame (f : Field) (hf : f ∈ controlFields) : Field.same f s u := h f (hdata f hf)
  simp only [controlFields, List.forall_mem_cons, Field.same] at hsame
  obtain ⟨hphase, hmode, hptr, hblk, ht, hdone, herr, hmsgLen, hplen, -⟩ := hsame
  unfold PhaseInv OnBlock Padding Compressing Running at hs ⊢
  rwa [← hphase, ← hmode, ← hptr, ← hblk, ← ht, ← hdone, ← herr, ← hmsgLen, ← hplen]

theorem startCommand_phaseInv {m : Mode} {p : Phase} (hs : s.PhaseInv) (h : startCommand m p s = .next u)
    (hstart : s.phase = .idle → (s.accept m p).PhaseInv) : u.PhaseInv := by
  rw [startCommand_eq] at h
  obtain rfl := Host.Outcome.next.inj h
  split
  · exact hstart ‹_›
  · exact hs

theorem runCommand_phaseInv {c : Command} (hs : s.PhaseInv) (h : runCommand c s = .next u) : u.PhaseInv := by
  have herr (hp : s.phase = .idle) : s.err = .none := by
    simp only [State.PhaseInv, hp] at hs
    exact hs.1
  cases c with
  | nop | reserved5 | reserved6 => cases h; exact hs
  | rst => cases h; exact ⟨rfl, rfl⟩
  | _ =>
    refine startCommand_phaseInv hs h fun hp => ?_
    simp [State.PhaseInv, State.Padding, State.Compressing, State.Running, herr hp]

theorem execPadChk_phaseInv (hs : s.PhaseInv) (h : execPadChk s = .next u) : u.PhaseInv := by
  obtain ⟨⟨hp, -⟩, rfl⟩ := (State.microOp_next ..).1 h
  simp only [State.PhaseInv, hp] at hs
  obtain ⟨hpad, hptr⟩ := hs
  split_ifs with hlarge hempty
  · obtain ⟨⟨hdone, -⟩, ht, -⟩ := hpad
    exact ⟨hdone, nofun, ht⟩
  · exact ⟨hpad, by bv_omega, by bv_omega⟩
  · exact ⟨hpad, by bv_omega, by bv_omega⟩

/-- PTR moves on without wrapping inside its width. -/
theorem toNat_ptr_add {n : Nat} (hbound : s.ptr.toNat + n < 2 ^ 30) :
    (BitVec.ofNat 30 (s.ptr.toNat + n)).toNat = s.ptr.toNat + n := by
  rw [BitVec.toNat_ofNat, Nat.mod_eq_of_lt hbound]

theorem execPadCopy_phaseInv (hs : s.PhaseInv) (h : execPadCopy s = .next u) : u.PhaseInv := by
  obtain ⟨⟨hp, -⟩, rfl⟩ := (State.microOp_next ..).1 h
  simp only [State.PhaseInv, hp] at hs
  obtain ⟨hpad, hsmall, hptr⟩ := hs
  have hnext := toNat_ptr_add (s := s) (n := 1) (by omega)
  split_ifs with hmore
  · exact ⟨hpad, hsmall, hnext.trans_lt hmore⟩
  · have hlast : s.ptr.toNat + 1 = s.msgLen.toNat := by omega
    exact ⟨hpad, hsmall, hnext.trans hlast⟩

/-- The marker and the zeros fill the buffer up to the place of the length field and stop there. -/
theorem appendPadByte_phaseInv (b : Byte) (hpad : s.Padding) (hsmall : s.msgLen.toNat < 2 ^ 29)
    (hlow : s.msgLen.toNat ≤ s.ptr.toNat) (hhigh : s.ptr.toNat ≤ s.msgLen.toNat + zeroBytes s.msgLen.toNat) :
    (s.appendPadByte b).PhaseInv := by
  have hzeros : zeroBytes s.msgLen.toNat = (119 - s.msgLen.toNat % 64) % 64 := rfl
  have hnext := toNat_ptr_add (s := s) (n := 1) (by omega)
  unfold State.appendPadByte State.afterPadByte
  split_ifs with hend
  · have hlast : s.ptr.toNat + 1 = s.msgLen.toNat + 1 + zeroBytes s.msgLen.toNat := by omega
    exact ⟨hpad, hsmall, hnext.trans hlast⟩
  · have hmore : s.ptr.toNat + 1 ≤ s.msgLen.toNat + zeroBytes s.msgLen.toNat := by omega
    exact ⟨hpad, hsmall, (Nat.lt_succ_of_le hlow).trans_eq hnext.symm, hnext.trans_le hmore⟩

theorem execPadMark_phaseInv (hs : s.PhaseInv) (h : execPadMark s = .next u) : u.PhaseInv := by
  obtain ⟨⟨hp, -⟩, rfl⟩ := (State.microOp_next ..).1 h
  simp only [State.PhaseInv, hp] at hs
  obtain ⟨hpad, hsmall, hptr⟩ := hs
  exact appendPadByte_phaseInv _ hpad hsmall hptr.ge (by omega)

theorem execPadZero_phaseInv (hs : s.PhaseInv) (h : execPadZero s = .next u) : u.PhaseInv := by
  obtain ⟨⟨hp, -⟩, rfl⟩ := (State.microOp_next ..).1 h
  simp only [State.PhaseInv, hp] at hs
  obtain ⟨hpad, hsmall, hlow, hhigh⟩ := hs
  exact appendPadByte_phaseInv _ hpad hsmall hlow.le hhigh

theorem execPadLen_phaseInv (hs : s.PhaseInv) (h : execPadLen s = .next u) : u.PhaseInv := by
  obtain ⟨⟨hp, -⟩, rfl⟩ := (State.microOp_next ..).1 h
  simp only [State.PhaseInv, hp, zeroBytes] at hs
  obtain ⟨⟨hrun, ht, -⟩, hsmall, hptr⟩ := hs
  have hplen := toNat_ptr_add (s := s) (n := 8) (by omega)
  split_ifs with hm
  · have hbuffer : (s.ptr.toNat + 8) % 64 = 0 ∧ 64 ≤ s.ptr.toNat + 8 := by omega
    simpa only [State.PhaseInv, State.Compressing, State.Running, State.appendLength_done, State.appendLength_err,
      State.appendLength_mode, State.appendLength_t, State.appendLength_plen, hplen] using
      ⟨⟨hrun, Or.inl hm⟩, ht, fun _ => hbuffer⟩
  · simpa [State.PhaseInv] using And.intro hrun.2 ht

theorem execCmpChk_phaseInv (hs : s.PhaseInv) (h : execCmpChk s = .next u) : u.PhaseInv := by
  obtain ⟨⟨hp, -⟩, rfl⟩ := (State.microOp_next ..).1 h
  simp only [State.PhaseInv, hp] at hs
  obtain ⟨hcmp, ht, hhash⟩ := hs
  split_ifs with hpart
  · exact ⟨hcmp.1.1, nofun, ht⟩
  · exact ⟨hcmp, ht, not_not.1 hpart, fun hm => (hhash hm).2⟩

/-- The compressor hands over to the encoder under HASH and finishes under COMPRESS. -/
theorem endCompression_phaseInv (hrun : s.Running) (ht : s.t = 0) : s.endCompression.PhaseInv := by
  unfold State.endCompression
  split_ifs with hm
  · exact ⟨hrun, by simp [ht], Or.inl hm⟩
  · exact ⟨hrun.2, ht⟩

theorem execAccIv_phaseInv (hs : s.PhaseInv) (h : execAccIv s = .next u) : u.PhaseInv := by
  obtain ⟨⟨hp, -⟩, rfl⟩ := (State.microOp_next ..).1 h
  simp only [State.PhaseInv, hp] at hs
  obtain ⟨hcmp, -, hmul, -⟩ := hs
  split_ifs with hpos
  · exact ⟨⟨hcmp, hmul, show 64 * 0 + 64 ≤ s.plen.toNat by omega⟩, Nat.zero_le 15⟩
  · exact endCompression_phaseInv hcmp.1 rfl

/-- T moves on without wrapping below its last value. -/
theorem toNat_t_add_one (hlast : s.t.toNat < 63) : (s.t + 1).toNat = s.t.toNat + 1 := by
  bv_omega

theorem execMsxLoad_phaseInv (hs : s.PhaseInv) (h : execMsxLoad s = .next u) : u.PhaseInv := by
  obtain ⟨⟨hp, -⟩, rfl⟩ := (State.microOp_next ..).1 h
  simp only [State.PhaseInv, hp] at hs
  obtain ⟨hblock, -⟩ := hs
  split_ifs with hmore
  · simp only [State.PhaseInv, State.setW_phase, hp]
    exact ⟨hblock, (toNat_t_add_one (by omega)).trans_le hmore⟩
  · exact ⟨hblock, Nat.le_refl 16⟩

theorem execMsxExp_phaseInv (hs : s.PhaseInv) (h : execMsxExp s = .next u) : u.PhaseInv := by
  obtain ⟨⟨hp, -⟩, rfl⟩ := (State.microOp_next ..).1 h
  simp only [State.PhaseInv, hp] at hs
  obtain ⟨hblock, hlow⟩ := hs
  split_ifs with hmore
  · simp only [State.PhaseInv, State.setW_phase, hp]
    exact ⟨hblock, (Nat.le_succ_of_le hlow).trans_eq (toNat_t_add_one hmore).symm⟩
  · exact ⟨hblock, rfl⟩

theorem execRndInit_phaseInv (hs : s.PhaseInv) (h : execRndInit s = .next u) : u.PhaseInv := by
  obtain ⟨⟨hp, -⟩, rfl⟩ := (State.microOp_next ..).1 h
  simp only [State.PhaseInv, hp] at hs
  exact hs.1

theorem execRndStep_phaseInv (hs : s.PhaseInv) (h : execRndStep s = .next u) : u.PhaseInv := by
  obtain ⟨⟨hp, -⟩, rfl⟩ := (State.microOp_next ..).1 h
  simp only [State.PhaseInv, hp] at hs
  split_ifs with hmore
  · simp only [State.PhaseInv, State.roundApplied_phase, hp]
    exact hs
  · exact ⟨hs, rfl⟩

theorem execAccAdd_phaseInv (hs : s.PhaseInv) (h : execAccAdd s = .next u) : u.PhaseInv := by
  obtain ⟨⟨hp, -⟩, rfl⟩ := (State.microOp_next ..).1 h
  simp only [State.PhaseInv, hp] at hs
  obtain ⟨⟨hcmp, hmul, hin⟩, -⟩ := hs
  split_ifs with hmore
  · have hfits : 64 * (s.blk.toNat + 1) < s.plen.toNat := of_decide_eq_true hmore
    exact ⟨⟨hcmp, hmul, show 64 * (s.blk + 1).toNat + 64 ≤ s.plen.toNat by bv_omega⟩, Nat.zero_le 15⟩
  · exact endCompression_phaseInv hcmp.1 rfl

theorem execHexEnc_phaseInv (hs : s.PhaseInv) (h : execHexEnc s = .next u) : u.PhaseInv := by
  obtain ⟨⟨hp, -⟩, rfl⟩ := (State.microOp_next ..).1 h
  simp only [State.PhaseInv, hp] at hs
  obtain ⟨hrun, -, hm⟩ := hs
  split_ifs with hmore
  · simp only [State.PhaseInv, State.Running, State.wordEncoded_phase, State.wordEncoded_done, State.wordEncoded_err,
      State.wordEncoded_mode, hp]
    exact ⟨hrun, (toNat_t_add_one (by omega)).trans_le hmore, hm⟩
  · simpa [State.PhaseInv] using hrun.2

/-- Commands and micro-operations by their own lemmas; of the accesses only the lengths' two write a control register, in IDLE,
where the invariant does not speak of the lengths. -/
theorem exec_phaseInv {i : Instr} (hs : s.PhaseInv) (h : exec i s = .next u) : u.PhaseInv := by
  cases i with
  | nop => exact runCommand_phaseInv (c := .nop) hs h
  | hash => exact runCommand_phaseInv (c := .hash) hs h
  | pad => exact runCommand_phaseInv (c := .pad) hs h
  | compress => exact runCommand_phaseInv (c := .compress) hs h
  | encode => exact runCommand_phaseInv (c := .encode) hs h
  | cmdReserved5 => exact runCommand_phaseInv (c := .reserved5) hs h
  | cmdReserved6 => exact runCommand_phaseInv (c := .reserved6) hs h
  | rst => exact runCommand_phaseInv (c := .rst) hs h
  | wrCmd addr data => exact runCommand_phaseInv hs h
  | idle | fault => cases h; exact hs
  | padChk => exact execPadChk_phaseInv hs h
  | padCopy => exact execPadCopy_phaseInv hs h
  | padMark => exact execPadMark_phaseInv hs h
  | padZero => exact execPadZero_phaseInv hs h
  | padLen => exact execPadLen_phaseInv hs h
  | cmpChk => exact execCmpChk_phaseInv hs h
  | accIv => exact execAccIv_phaseInv hs h
  | msxLoad => exact execMsxLoad_phaseInv hs h
  | msxExp => exact execMsxExp_phaseInv hs h
  | rndInit => exact execRndInit_phaseInv hs h
  | rndStep => exact execRndStep_phaseInv hs h
  | accAdd => exact execAccAdd_phaseInv hs h
  | hexEnc => exact execHexEnc_phaseInv hs h
  | phaseReserved14 => cases h
  | wrMsgLen | wrPlen =>
    simp only [exec, execWrMsgLen, execWrPlen] at h
    split at h
    next hp =>
      cases h
      simp only [State.PhaseInv, hp] at hs ⊢
      exact hs
    · cases h; exact hs
  | wrMsg | wrPbuf =>
    refine hs.of_sameBut (exec_frame h) ?_
    simp only [instrWrites]
    split <;> simp [controlFields]
  | _ => exact hs.of_sameBut (exec_frame h) (by simp [instrWrites, controlFields])

end

theorem exec_inv {i : Instr} {s u : State} (hs : s.Inv) (h : exec i s = .next u) : u.Inv := by
  obtain ⟨hphase, hmem⟩ := s.inv_iff.1 hs
  exact u.inv_iff.2 ⟨exec_phaseInv hphase h, exec_memoryInv h hmem⟩

/-- The invariant says nothing of the pending events. -/
theorem inv_pending {s : State} (rest : List Event) : ({ s with pending := rest } : State).Inv ↔ s.Inv := by
  simp only [State.inv_iff]
  exact Iff.rfl

/-- A step takes the first pending event and then executes an instruction or resets. -/
theorem step_cases {s u : State} (h : step s = .next u) :
    ∃ rest, (∃ i, exec i { s with pending := rest } = .next u) ∨ u = { s with pending := rest }.resetEvent := by
  rcases hq : s.pending with _ | ⟨event, rest⟩
  · rw [step_of_nextTurn (State.nextTurn_nil hq)] at h
    exact ⟨s.pending, Or.inl ⟨_, h⟩⟩
  refine ⟨rest, ?_⟩
  cases event with
  | sequencer => exact Or.inl ⟨_, (step_of_nextTurn (State.nextTurn_sequencer hq)).symm.trans h⟩
  | access word => exact Or.inl ⟨_, (step_of_nextTurn (State.nextTurn_access hq)).symm.trans h⟩
  | command code => exact Or.inl ⟨_, (step_of_nextTurn (State.nextTurn_command hq)).symm.trans h⟩
  | resetInput =>
    simp only [step, State.nextTurn_resetInput hq] at h
    exact Or.inr (Host.Outcome.next.inj h).symm

/-- Settles O41: a step takes an event, which the invariant does not see, and then executes an instruction or resets. -/
theorem everyStepKeepsTheInvariant : Obligations.EveryStepKeepsTheInvariant := by
  intro s u hs h
  obtain ⟨rest, ⟨i, hexec⟩ | rfl⟩ := step_cases h
  · exact exec_inv ((inv_pending rest).2 hs) hexec
  · exact exec_inv (i := .rst) ((inv_pending rest).2 hs) rfl

/-! ## Reset and the states a run reaches -/

/-- Settles O42: power-on reset is IDLE with no fault, T = 0 and nothing written in the memories. -/
theorem resetMeetsTheInvariant : Obligations.ResetMeetsTheInvariant :=
  ⟨fun _ => (State.inv_iff _).2 ⟨⟨rfl, rfl⟩, rfl, rfl, rfl, rfl⟩, rfl, rfl, rfl, rfl, rfl, rfl, rfl, rfl, rfl, rfl⟩

/-- The invariant holds along every run. -/
theorem runSteps_inv {k : Nat} {s u : State} (hs : s.Inv) (h : runSteps k s = .next u) : u.Inv := by
  induction k generalizing s with
  | zero => cases h; exact hs
  | succ k ih =>
    simp only [runSteps] at h
    split at h
    next v hv => exact ih (everyStepKeepsTheInvariant s v hs hv) h
    · cases h
    · cases h

/-! ## The clauses of 10_state.md rule R42 -/

section
variable {s : State}

/-- R42 (a) and (b). -/
theorem statusLegal_iff :
    s.statusLegal = true ↔ (s.phase = .fault ↔ s.err ≠ .none) ∧ (s.done = true → s.phase = .idle ∧ s.err = .none) := by
  simp only [State.statusLegal, Bool.and_eq_true, decide_eq_true_eq]

/-- R42 (c): the ranges of PTR. -/
theorem ptr_of_padLegal (h : s.padLegal = true) :
    (s.phase = .padCopy → s.ptr.toNat < s.msgLen.toNat ∧ s.msgLen.toNat < 2 ^ 29) ∧
    (s.phase = .padMark → s.ptr.toNat = s.msgLen.toNat) ∧
    (s.phase = .padZero → s.msgLen.toNat < s.ptr.toNat ∧ s.ptr.toNat % 64 ≠ 56) ∧
    (s.phase = .padLen → s.ptr.toNat % 64 = 56) := by
  refine ⟨fun hp => ?_, fun hp => ?_, fun hp => ?_, fun hp => ?_⟩ <;>
    simp only [State.padLegal, hp, Bool.and_eq_true, decide_eq_true_eq] at h <;> tauto

/-- R42 (d): the range of T. -/
theorem t_of_tLegal (h : s.tLegal = true) :
    (s.phase = .msxLoad → s.t.toNat ≤ 15) ∧ (s.phase = .msxExp → 16 ≤ s.t.toNat) ∧ (s.phase = .hexEnc → s.t.toNat ≤ 7) ∧
    (s.phase ∉ [Phase.msxLoad, .msxExp, .rndStep, .hexEnc] → s.t = 0) := by
  unfold State.tLegal at h
  split at h <;> simp_all

/-- R42 (e): the block inside the buffer. -/
theorem block_of_blockLegal (h : s.blockLegal = true)
    (hp : s.phase ∈ [Phase.msxLoad, .msxExp, .rndInit, .rndStep, .accAdd]) :
    s.plen.toNat % 64 = 0 ∧ 64 * s.blk.toNat + 64 ≤ s.plen.toNat := by
  unfold State.blockLegal at h
  split at h <;> simp_all

/-- R42 (f): the command that has the phase. -/
theorem mode_of_modeLegal (h : s.modeLegal = true) :
    (s.phase ∈ [Phase.padChk, .padCopy, .padMark, .padZero, .padLen] → s.mode = .hash ∨ s.mode = .pad) ∧
    (s.phase ∈ [Phase.cmpChk, .accIv, .msxLoad, .msxExp, .rndInit, .rndStep, .accAdd] → s.mode = .hash ∨ s.mode = .compress) ∧
    (s.phase = .hexEnc → s.mode = .hash ∨ s.mode = .encode) := by
  unfold State.modeLegal at h
  split at h <;> simp_all
end

/-- Settles O44: the invariant holds at reset and along the run, and its control part implies every clause of R42. -/
theorem reachableStatesMeetR42 : Obligations.ReachableStatesMeetR42 := by
  intro events k s hrun
  have hlegal := (runSteps_inv (resetMeetsTheInvariant.1 events) hrun).legal
  obtain ⟨hstatus, hpad, ht, hblock, hmode⟩ := s.legal_iff.1 hlegal
  obtain ⟨hfault, hdone⟩ := statusLegal_iff.1 hstatus
  obtain ⟨hcopy, hmark, hzero, hlen⟩ := ptr_of_padLegal hpad
  obtain ⟨hload, hexp, hhex, hrest⟩ := t_of_tLegal ht
  obtain ⟨hpadder, hcompressor, hencoder⟩ := mode_of_modeLegal hmode
  have hlast : s.t.toNat ≤ 63 := Nat.le_of_lt_succ s.t.isLt
  exact ⟨hfault, hdone, hcopy, hmark, hzero, hlen, hload, fun hp => ⟨hexp hp, hlast⟩, fun _ => hlast, hhex, hrest,
    block_of_blockLegal hblock, hpadder, hcompressor, hencoder⟩
end Sys2Proof.Machine

namespace Sys2Proof.Machine

/-! ## Host reads (20_memory.md rule R69) -/

/-- The outcome `o` of a read in `s`: one record of the request's header and address, and nothing the hardware holds changed
(30_encoding.md rules R92, R94). -/
def AnswersRead (s : State) (sel : BitVec 3) (addr : BitVec 30) (o : Host.Outcome State Fault Refusal) : Prop :=
  ∃ (u : State) (v : BitVec 64), o = .next u ∧ SameBut replyFields s u ∧ u.replies = s.replies ++ [⟨0#1, sel, addr, v⟩]

theorem reply_answersRead (s : State) (sel : BitVec 3) (addr : BitVec 30) (value : BitVec 64) :
    AnswersRead s sel addr (.next (s.reply sel addr value)) :=
  ⟨_, value, rfl, by simp [sameBut_iff, replyFields], State.reply_replies ..⟩

/-- With a value or with a free one, a window read replies once. -/
theorem readWindow_answersRead (s : State) (sel : BitVec 3) (addr : BitVec 30) (size : Nat) (value : BitVec 64) :
    AnswersRead s sel addr (readWindow sel addr size value s) := by
  have hframe {u : State} (h : readWindow sel addr size value s = .next u) : SameBut replyFields s u := readWindow_frame h
  rw [readWindow_eq] at hframe ⊢
  refine ⟨_, if s.phase = .idle ∧ addr.toNat < size then value else Config.unspecifiedRead s.draws, rfl, hframe rfl, ?_⟩
  split
  · exact State.reply_replies ..
  · exact State.replyUnspecified_replies ..

/-- The eight registers and windows an access can select (30_encoding.md rule R92). -/
theorem sel_cases : ∀ sel : BitVec 3,
    sel = 0#3 ∨ sel = 1#3 ∨ sel = 2#3 ∨ sel = 3#3 ∨ sel = 4#3 ∨ sel = 5#3 ∨ sel = 6#3 ∨ sel = 7#3 := by
  decide

/-- The registers' four headers reply in every PHASE, the memories' and register files' four through their window. -/
theorem exec_read_answersRead (sel : BitVec 3) (addr : BitVec 30) (data : BitVec 64) (s : State) :
    AnswersRead s sel addr (exec (Access.instr ⟨0#1, sel, addr, data⟩) s) := by
  obtain rfl | rfl | rfl | rfl | rfl | rfl | rfl | rfl := sel_cases sel <;> simp only [Access.instr, BitVec.reduceGetLsb]
  · exact reply_answersRead s _ addr 0
  · exact reply_answersRead s _ addr (zext64 s.status)
  · exact reply_answersRead s _ addr s.msgLen
  · exact reply_answersRead s _ addr (zext64 s.plen)
  · exact readWindow_answersRead s _ addr _ _
  · exact readWindow_answersRead s _ addr _ _
  · exact readWindow_answersRead s _ addr _ _
  · exact readWindow_answersRead s _ addr _ _

/-- The `wr` field of a packed access is its bit 97 (30_encoding.md rule R92). -/
theorem wr_eq_zero {word : BitVec 98} (h : word.getLsbD 97 = false) : word.extractLsb' 97 1 = 0#1 := by
  ext i hi
  obtain rfl : i = 0 := by omega
  simpa using h

/-- Settles O21: bit 97 makes the access one of the eight reads, and each of them replies once. -/
theorem readsReplyOnceAndWriteNothing : Obligations.ReadsReplyOnceAndWriteNothing := by
  intro word s hread
  have hwr := wr_eq_zero hread
  have hdecode : decode (.acc word) =
      Access.instr ⟨0#1, word.extractLsb' 94 3, word.extractLsb' 64 30, word.extractLsb' 0 64⟩ := by
    rw [← hwr]; rfl
  rw [hwr, hdecode]
  exact exec_read_answersRead _ _ _ s

/-! ## Accesses while a command runs (20_memory.md rule R73, 45_host_commands.md rule R224) -/

theorem phase_ne_idle_of_busy {s : State} (h : s.busy = true) : s.phase ≠ .idle := by
  intro hp
  simp [State.busy, Phase.busy, hp] at h

/-- A command's effect tells IDLE from the other phases and nothing more (45_host_commands.md rule R200). -/
theorem commandWrites_of_ne_idle (c : Command) {p : Phase} (hp : p ≠ .idle) : commandWrites c p = commandWrites c .fault := by
  cases c with
  | hash | pad | compress | encode => simp [commandWrites, hp]
  | nop | reserved5 | reserved6 | rst => rfl

/-- Outside IDLE an instruction's row of the table is the one it has in FAULT. -/
theorem instrWrites_of_ne_idle (i : Instr) {p : Phase} (hp : p ≠ .idle) : instrWrites i p = instrWrites i .fault := by
  cases i with
  | hash => exact commandWrites_of_ne_idle .hash hp
  | pad => exact commandWrites_of_ne_idle .pad hp
  | compress => exact commandWrites_of_ne_idle .compress hp
  | encode => exact commandWrites_of_ne_idle .encode hp
  | wrCmd addr data => exact commandWrites_of_ne_idle _ hp
  | wrMsgLen | wrPlen | wrMsg | wrPbuf => simp [instrWrites, hp]
  | _ => rfl

/-- The header of WR.CMD selects its row whatever the other bits are (30_encoding.md rule R92). -/
theorem decode_acc_of_header {word : BitVec 98} (h : word.extractLsb' 94 4 = 0b1000#4) :
    decode (.acc word) = .wrCmd (word.extractLsb' 64 30) (word.extractLsb' 0 64) := by
  have hfields : word.extractLsb' 97 1 = 1#1 ∧ word.extractLsb' 94 3 = 0#3 := by
    simp only [← BitVec.toNat_inj, BitVec.extractLsb'_toNat, BitVec.toNat_ofNat, Nat.shiftRight_eq_div_pow] at h ⊢
    omega
  obtain ⟨hwr, hsel⟩ := hfields
  simp only [decode, Access.unpack, Access.instr, hwr, hsel, BitVec.reduceGetLsb]

/-- The word is a WR.CMD with the code of RST: header 1000 and code 7 (30_encoding.md rules R91, R92). -/
def IsRstWord (word : BitVec 98) : Prop :=
  word.extractLsb' 94 4 = 0b1000#4 ∧ word.extractLsb' 0 3 = 7#3

theorem exec_acc_of_isRstWord {word : BitVec 98} (h : IsRstWord word) (s : State) :
    exec (decode (.acc word)) s = exec .rst s := by
  obtain ⟨hheader, hcode⟩ := h
  have hrst : commandOf (word.extractLsb' 0 64) = .rst := (ofCode_eq_rst_iff _).2 ((code_of_data word).trans hcode)
  rw [decode_acc_of_header hheader, exec_wrCmd_rst hrst]
  rfl

/-- Outside IDLE any other access writes on the host's side alone. -/
theorem instrWrites_acc_of_not_isRstWord {word : BitVec 98} (h : ¬ IsRstWord word) {p : Phase} (hp : p ≠ .idle) :
    ∀ f ∈ instrWrites (decode (.acc word)) p, f ∈ replyFields := by
  rw [instrWrites_of_ne_idle _ hp]
  obtain hquiet | ⟨hwr, hsel, hrst, -⟩ := instrWrites_access_fault (Access.unpack word)
  · exact hquiet
  · exact absurd ⟨header_eq hwr hsel, (code_of_data word).symm.trans ((ofCode_eq_rst_iff _).1 hrst)⟩ h

/-- Settles O22: the word of RST resets, and any other access outside IDLE has only the host's side to write. -/
theorem accessWhileBusyChangesNothing : Obligations.AccessWhileBusyChangesNothing := by
  intro word s hbusy
  by_cases hrst : IsRstWord word
  · obtain ⟨hheader, hcode⟩ := hrst
    exact ⟨s.resetEvent, exec_acc_of_isRstWord ⟨hheader, hcode⟩ s, Or.inl ⟨hheader, hcode, rfl⟩⟩
  · obtain ⟨u, hu⟩ := access_next (Access.unpack word) s
    have hquiet := instrWrites_acc_of_not_isRstWord hrst (phase_ne_idle_of_busy hbusy)
    exact ⟨u, hu, Or.inr ⟨hrst, (exec_frame hu).mono hquiet⟩⟩

/-! ## Narrow reads of a multi-byte write (20_memory.md rules R62, R63) -/

/-- The last `n` bytes of a number are the bytes of its low part. -/
theorem drop_bytesOf (i n v : Nat) : (bytesOf (i + n) v).drop i = bytesOf n v := by
  induction i with
  | zero => rw [Nat.zero_add, List.drop_zero]
  | succ i ih => rw [Nat.succ_add, bytesOf, List.drop_succ_cons, ih]

/-- The first `m` bytes of a number are the bytes of its high part. -/
theorem take_bytesOf (m k v : Nat) : (bytesOf (m + k) v).take m = bytesOf m (v / 256 ^ k) := by
  induction m with
  | zero => rfl
  | succ m ih =>
    rw [Nat.succ_add, bytesOf, bytesOf, List.take_succ_cons, ih, Nat.div_div_eq_div_mul, ← Nat.pow_add, Nat.add_comm k m]

/-- Bytes read inside a byte string that was written are a slice of it. -/
theorem State.readBytes_writeBytes (s : State) (sp : Space) (p i m : Nat) (bs : List Byte) (h : i + m ≤ bs.length) :
    (s.writeBytes sp p bs).readBytes sp (p + i) m = (bs.drop i).take m := by
  apply List.ext_getElem
  · simp only [State.length_readBytes, List.length_take, List.length_drop]
    omega
  · intro j hj _
    rw [State.length_readBytes] at hj
    have hin : p ≤ p + i + j ∧ p + i + j < p + bs.length := by omega
    have hoff : p + i + j - p = i + j := by omega
    have hlt : i + j < bs.length := by omega
    simp only [State.readBytes, List.getElem_map, List.getElem_range, State.readByte_writeBytes, List.getElem_take,
      List.getElem_drop]
    rw [if_pos ⟨trivial, hin⟩, hoff, List.getD_eq_getElem _ _ hlt]

/-- A read of `m` bytes inside a multi-byte write, `k` bytes from its end, sees its own slice of the number. -/
theorem State.memRead_memWrite (s : State) (sp : Space) (p i m k v : Nat) :
    (s.memWrite sp p (i + (m + k)) v).memRead sp (p + i) m = v / 256 ^ k % 256 ^ m := by
  have hslice : i + m ≤ (bytesOf (i + (m + k)) v).length := by
    rw [length_bytesOf]
    omega
  rw [State.memRead, State.memWrite, State.readBytes_writeBytes s sp p i m _ hslice, drop_bytesOf, take_bytesOf, numberOf_bytesOf]

theorem State.memRead_one (s : State) (sp : Space) (a : Nat) : s.memRead sp a 1 = (s.readByte sp a).toNat := by
  simp [State.memRead, State.readBytes, numberOf]

/-- A multi-byte write reaches no byte outside its own. -/
theorem State.readByte_memWrite_of_outside (s : State) {sp sp' : Space} {p n x : Nat} (v : Nat)
    (h : sp' = sp → x < p ∨ p + n ≤ x) : (s.memWrite sp p n v).readByte sp' x = s.readByte sp' x := by
  rw [State.memWrite, State.readByte_writeBytes, length_bytesOf, if_neg]
  rintro ⟨hsp, hin⟩
  have hout := h hsp
  omega

/-- Settles O46: each narrow read is a slice of the one byte string written, and no other byte is reached. -/
theorem writesReachOnlyTheirOwnBytes : Obligations.WritesReachOnlyTheirOwnBytes := by
  intro s sp p v hv u
  have hhigh : u.memRead sp p 4 = v / 256 ^ 4 % 256 ^ 4 := s.memRead_memWrite sp p 0 4 4 v
  have hlow : u.memRead sp (p + 4) 4 = v / 256 ^ 0 % 256 ^ 4 := s.memRead_memWrite sp p 4 4 0 v
  have hlast : u.memRead sp (p + 7) 1 = v / 256 ^ 0 % 256 ^ 1 := s.memRead_memWrite sp p 7 1 0 v
  have hall : u.memRead sp p 8 = v / 256 ^ 0 % 256 ^ 8 := s.memRead_memWrite sp p 0 8 0 v
  rw [State.memRead_one] at hlast
  refine ⟨by omega, by omega, by omega, by omega, fun x hx => ?sameSpace, fun sp' x hsp => ?otherSpace⟩
  case sameSpace => exact s.readByte_memWrite_of_outside v fun _ => hx
  case otherSpace => exact s.readByte_memWrite_of_outside v fun heq => absurd heq hsp

end Sys2Proof.Machine

namespace Sys2Proof.Laws.MatchesTable

/-- Every instruction's encoding matches its row. -/
theorem matches_row (i : Instr) : Statement i :=
  match i with
  | .nop => nop
  | .hash => hash
  | .pad => pad
  | .compress => compress
  | .encode => encode
  | .cmdReserved5 => cmdReserved5
  | .cmdReserved6 => cmdReserved6
  | .rst => rst
  | .idle => idle
  | .padChk => padChk
  | .padCopy => padCopy
  | .padMark => padMark
  | .padZero => padZero
  | .padLen => padLen
  | .cmpChk => cmpChk
  | .accIv => accIv
  | .msxLoad => msxLoad
  | .msxExp => msxExp
  | .rndInit => rndInit
  | .rndStep => rndStep
  | .accAdd => accAdd
  | .hexEnc => hexEnc
  | .phaseReserved14 => phaseReserved14
  | .fault => fault
  | .wrCmd addr data => wrCmd addr data
  | .rdCmd addr data => rdCmd addr data
  | .rdStatus addr data => rdStatus addr data
  | .wrStatus addr data => wrStatus addr data
  | .wrMsgLen addr data => wrMsgLen addr data
  | .rdMsgLen addr data => rdMsgLen addr data
  | .wrPlen addr data => wrPlen addr data
  | .rdPlen addr data => rdPlen addr data
  | .wrMsg addr data => wrMsg addr data
  | .rdMsg addr data => rdMsg addr data
  | .wrPbuf addr data => wrPbuf addr data
  | .rdPbuf addr data => rdPbuf addr data
  | .rdH addr data => rdH addr data
  | .wrH addr data => wrH addr data
  | .rdHex addr data => rdHex addr data
  | .wrHex addr data => wrHex addr data

end Sys2Proof.Laws.MatchesTable

namespace Sys2Proof

/-! ## Codes and records: each one and the bits it packs to (30_encoding.md rules R91, R92, R93) -/

theorem Command.code_ofCode : ∀ c : BitVec 3, (Command.ofCode c).code = c := by
  decide

theorem Phase.code_ofCode : ∀ c : BitVec 4, (Phase.ofCode c).code = c := by
  decide

/-- A packed access as a number: its fields side by side (30_encoding.md rule R92). -/
theorem Access.toNat_pack (a : Access) :
    a.pack.toNat = ((a.wr.toNat * 2 ^ 3 + a.sel.toNat) * 2 ^ 30 + a.addr.toNat) * 2 ^ 64 + a.data.toNat := by
  simp only [Access.pack, BitVec.toNat_append]
  rw [← Nat.shiftLeft_add_eq_or_of_lt a.sel.isLt, ← Nat.shiftLeft_add_eq_or_of_lt a.addr.isLt,
    ← Nat.shiftLeft_add_eq_or_of_lt a.data.isLt]
  simp only [Nat.shiftLeft_eq]

@[simp] theorem Access.unpack_pack (a : Access) : Access.unpack a.pack = a := by
  obtain ⟨wr, sel, addr, data⟩ := a
  have hword := Access.toNat_pack ⟨wr, sel, addr, data⟩
  simp only [Access.unpack, Access.mk.injEq, ← BitVec.toNat_inj, BitVec.extractLsb'_toNat, Nat.shiftRight_eq_div_pow, hword]
  refine ⟨?wr, ?sel, ?addr, ?data⟩ <;> omega

@[simp] theorem Access.pack_unpack (word : BitVec 98) : (Access.unpack word).pack = word := by
  rw [← BitVec.toNat_inj, Access.toNat_pack]
  simp only [Access.unpack, BitVec.extractLsb'_toNat, Nat.shiftRight_eq_div_pow]
  omega

/-! ## The encoder, format by format -/

theorem encode_command_instr (c : Command) : encode c.instr = .cmd c.code := by
  cases c <;> rfl

theorem encode_phase_instr (p : Phase) : encode p.instr = .phase p.code := by
  cases p <;> rfl

theorem wr_cases : ∀ wr : BitVec 1, wr = 0#1 ∨ wr = 1#1 := by
  decide

theorem sel_cases : ∀ sel : BitVec 3,
    sel = 0#3 ∨ sel = 1#3 ∨ sel = 2#3 ∨ sel = 3#3 ∨ sel = 4#3 ∨ sel = 5#3 ∨ sel = 6#3 ∨ sel = 7#3 := by
  decide

/-- Each of the sixteen headers `{wr, sel}` has an instruction of its own. -/
theorem encode_access_instr (a : Access) : encode a.instr = .acc a.pack := by
  obtain ⟨wr, sel, addr, data⟩ := a
  obtain rfl | rfl := wr_cases wr <;>
    obtain rfl | rfl | rfl | rfl | rfl | rfl | rfl | rfl := sel_cases sel <;>
    simp only [Access.instr, BitVec.reduceGetLsb, encode, encodeAccess]

/-! ## The round trips -/

/-- An encoded host access decodes to the instruction of its header, with every bit of `addr` and `data`. -/
theorem decode_encodeAccess (wr : BitVec 1) (sel : BitVec 3) (addr : BitVec 30) (data : BitVec 64) :
    decode (encodeAccess wr sel addr data) = Access.instr ⟨wr, sel, addr, data⟩ := by
  simp only [encodeAccess, decode, Access.unpack_pack]

/-- Settles O1: a code is its own literal, and an access record unpacks to the fields it was packed from. -/
theorem decodeEncodeAgree : Obligations.DecodeEncodeAgree := by
  intro i
  cases i with
  | nop | hash | pad | compress | encode | cmdReserved5 | cmdReserved6 | rst => rfl
  | idle | padChk | padCopy | padMark | padZero | padLen | cmpChk | accIv | msxLoad | msxExp | rndInit | rndStep | accAdd
  | hexEnc | phaseReserved14 | fault => rfl
  | wrCmd | rdCmd | rdStatus | wrStatus | wrMsgLen | rdMsgLen | wrPlen | rdPlen | wrMsg | rdMsg | wrPbuf | rdPbuf | rdH | wrH
  | rdHex | wrHex => simp only [encode, decode_encodeAccess, Access.instr, BitVec.reduceGetLsb]

/-- Settles O2: every code and every access word is what its instruction encodes to. -/
theorem encodeDecodeAgree : Obligations.EncodeDecodeAgree := by
  intro e
  cases e with
  | cmd code => rw [decode, encode_command_instr, Command.code_ofCode]
  | phase code => rw [decode, encode_phase_instr, Phase.code_ofCode]
  | acc word => rw [decode, encode_access_instr, Access.pack_unpack]

/-! ## The decoder on numbers (log entry 10) -/

theorem ofBits_nbits_bits (e : Encoded) : Encoded.ofBits e.nbits e.bits = .ok e := by
  cases e with
  | cmd code | phase code | acc code => simp [Encoded.ofBits, Encoded.nbits, Encoded.bits, code.isLt]

/-- An access may also come in 13 whole bytes. -/
theorem ofBits_wholeBytes {e : Encoded} (h : e.nbits = 98) : Encoded.ofBits 104 e.bits = .ok e := by
  cases e with
  | acc word => simp [Encoded.ofBits, Encoded.bits, word.isLt]
  | cmd | phase => simp [Encoded.nbits] at h

theorem decodeTableWord_of_ofBits {nbits bits : Nat} {e : Encoded} (h : Encoded.ofBits nbits bits = .ok e) :
    decodeTableWord nbits bits = some (decode e) := by
  simp only [decodeTableWord, decodeWord, h]

/-- Settles O3: the number is read back as the encoded instruction, which decodes by O1. -/
theorem tableWordRoundTrip : Obligations.TableWordRoundTrip := by
  intro i
  have hread {nbits : Nat} (h : Encoded.ofBits nbits (encode i).bits = .ok (encode i)) :
      decodeTableWord nbits (encode i).bits = some i := by
    rw [decodeTableWord_of_ofBits h, decodeEncodeAgree i]
  exact ⟨hread (ofBits_nbits_bits _), fun haccess => hread (ofBits_wholeBytes haccess)⟩

/-! ## The rows of the opcode table -/

/-- The selecting bits of a format: the whole code of a command or a phase, the header of an access (spec/opcode_table.json). -/
def selectingBits : Nat → Nat
  | 3 => 0b111
  | 4 => 0b1111
  | _ => 0x3c00000000000000000000000

theorem tableRow_mask (i : Instr) : i.tableRow.mask = selectingBits i.tableRow.nbits := by
  cases i <;> rfl

/-- A row is fixed by its format and its pattern, since the format fixes the selecting bits. -/
theorem tableRow_eq_of {i j : Instr} (hbits : i.tableRow.nbits = j.tableRow.nbits)
    (hpattern : i.tableRow.pattern = j.tableRow.pattern) : i.tableRow = j.tableRow := by
  have hmask : i.tableRow.mask = j.tableRow.mask := by rw [tableRow_mask, tableRow_mask, hbits]
  change TableRow.mk i.tableRow.nbits i.tableRow.mask i.tableRow.pattern = _
  rw [hbits, hmask, hpattern]

/-- Settles O4: the bits have the pattern of their own instruction's row too, under the same selecting bits. -/
theorem matchingBitsDecodeToTheRow : Obligations.MatchingBitsDecodeToTheRow := by
  intro e i hformat hmatch
  obtain ⟨hownFormat, hownMatch⟩ := Laws.MatchesTable.matches_row (decode e)
  rw [encodeDecodeAgree e] at hownFormat hownMatch
  have hbits : (decode e).tableRow.nbits = i.tableRow.nbits := hownFormat.symm.trans hformat
  refine tableRow_eq_of hbits ?_
  rw [← hownMatch, ← hmatch, tableRow_mask, tableRow_mask, hbits]

/-! ## Fixed words and the reserved phase -/

/-- Settles O5: the decoder evaluated on each word. -/
theorem specWordsDecode : Obligations.SpecWordsDecode := by
  unfold Obligations.SpecWordsDecode
  decide

/-- Settles O36: the row's meaning is the fault itself (30_encoding.md rule R99). -/
theorem reservedPhaseStops : Obligations.ReservedPhaseStops :=
  fun _ => rfl

end Sys2Proof

namespace Sys2Proof.Machine

/-! ## The padding of a message (40_padder.md rules R120, R127) -/

/-- The length field of a message of `len` bytes, one half always 0 (40_padder.md rule R125, 30_encoding.md rule R96). -/
def lengthField (len : Nat) : List Byte :=
  List.replicate 4 0x00#8 ++ bytesOf 4 (8 * len)

/-- What the padder appends to a message of `len` bytes (30_encoding.md rule R103). -/
def padding (len : Nat) : List Byte :=
  [0x80#8] ++ List.replicate (zeroBytes len) 0x00#8 ++ lengthField len

@[simp] theorem length_lengthField (len : Nat) : (lengthField len).length = 8 := by
  simp [lengthField]

theorem length_append_padding (m : List Byte) : (m ++ padding m.length).length = paddedLength m.length := by
  simp only [padding, paddedLength, List.length_append, List.length_singleton, List.length_replicate, length_lengthField]
  omega

theorem padMessage_of_lt {m : List Byte} (h : m.length < 2 ^ 29) : padMessage m = some (m ++ padding m.length) := by
  simp only [padMessage, if_pos h, padding, lengthField, zeroBytes, List.append_assoc]

/-- A padded message is a message within the limit with its padding. -/
theorem padMessage_eq_some_iff {m p : List Byte} :
    padMessage m = some p ↔ m.length < 2 ^ 29 ∧ m ++ padding m.length = p := by
  by_cases h : m.length < 2 ^ 29
  · rw [padMessage_of_lt h, Option.some.injEq, and_iff_right h]
  · rw [padMessage, if_neg h]
    exact ⟨nofun, fun hlt => absurd hlt.1 h⟩

/-- The padded length is the least multiple of 64 with room for the marker and the length field. -/
theorem paddedLength_eq (len : Nat) : paddedLength len = 64 * ((len + 8) / 64 + 1) := by
  simp only [paddedLength, zeroBytes]
  omega

/-- Settles O51: the padded message is the message, the marker and the rest, and its length is `paddedLength_eq`. -/
theorem paddedLengthIsTheLeastMultiple : Obligations.PaddedLengthIsTheLeastMultiple := by
  refine fun m => ⟨fun hm => ⟨m ++ padding m.length, padMessage_of_lt hm, ?_⟩, fun hm => ?large⟩
  case large => exact if_neg (Nat.not_lt.2 hm)
  have hmark : (m ++ padding m.length).getD m.length 0 = 0x80#8 := by simp [padding]
  rw [List.take_left' rfl, length_append_padding, paddedLength_eq]
  exact ⟨rfl, rfl, by omega, by omega, by omega, by omega, fun q hmul hroom => by omega, rfl, hmark⟩

/-- The length field tells the lengths of two messages within the limit apart. -/
theorem lengthField_inj {len len' : Nat} (h : len < 2 ^ 29) (h' : len' < 2 ^ 29) (heq : lengthField len = lengthField len') :
    len = len' := by
  have hnum := congrArg numberOf (List.append_cancel_left heq)
  rw [numberOf_bytesOf, numberOf_bytesOf] at hnum
  omega

/-- Settles O52: the length field at the end gives the message's length, and the message is that many bytes from the start. -/
theorem padIsInjective : Obligations.PadIsInjective := by
  intro m m' p hp hp'
  obtain ⟨hm, rfl⟩ := padMessage_eq_some_iff.1 hp
  obtain ⟨hm', heq⟩ := padMessage_eq_some_iff.1 hp'
  have hfield : lengthField m'.length = lengthField m.length := by
    simp only [padding, ← List.append_assoc] at heq
    exact List.append_inj_right' heq (by simp)
  exact (List.append_inj_left heq (lengthField_inj hm' hm hfield)).symm

/-! ## Bytes in a row -/

theorem State.readBytes_add (s : State) (sp : Space) (a m n : Nat) :
    s.readBytes sp a (m + n) = s.readBytes sp a m ++ s.readBytes sp (a + m) n := by
  simp [State.readBytes, List.range_add, Nat.add_assoc]

@[simp] theorem State.readBytes_one (s : State) (sp : Space) (a : Nat) : s.readBytes sp a 1 = [s.readByte sp a] :=
  rfl

/-- Two states in which every byte read is the same read the same bytes. -/
theorem State.readBytes_congr {s u : State} {sp : Space} {a n : Nat}
    (h : ∀ x, a ≤ x → x < a + n → s.readByte sp x = u.readByte sp x) : s.readBytes sp a n = u.readBytes sp a n :=
  List.map_congr_left fun i hi => h _ (Nat.le_add_right a i) (Nat.add_lt_add_left (List.mem_range.1 hi) a)

/-- One byte of a byte string read. -/
theorem State.readByte_of_readBytes {s : State} {sp : Space} {a i : Nat} {bs : List Byte}
    (h : s.readBytes sp a bs.length = bs) (hi : i < bs.length) : s.readByte sp (a + i) = bs[i] := by
  rw [List.getElem_of_eq h.symm hi]
  simp [State.readBytes]

theorem bytesOf_add (m k v : Nat) : bytesOf (m + k) v = bytesOf m (v / 256 ^ k) ++ bytesOf k v := by
  rw [← take_bytesOf, ← drop_bytesOf m k v, List.take_append_drop]

theorem getElem_bytesOf {n v i : Nat} (hi : i < (bytesOf n v).length) :
    (bytesOf n v)[i] = BitVec.ofNat 8 (v / 256 ^ (n - 1 - i)) := by
  induction n generalizing i with
  | zero => simp [bytesOf] at hi
  | succ n ih =>
    cases i with
    | zero => simp [bytesOf]
    | succ i =>
      simp only [bytesOf, List.getElem_cons_succ, ih]
      congr 3
      omega

theorem getElem_lengthField_high (len : Nat) {n : Nat} (hn : n < 4) :
    (lengthField len)[n]'(by rw [length_lengthField]; omega) = 0x00#8 := by
  have hin : n < (List.replicate 4 (0x00#8 : Byte)).length := hn
  simp only [lengthField, List.getElem_append_left hin, List.getElem_replicate]

theorem getElem_lengthField_low (len : Nat) {n : Nat} (hn : n < 4) :
    (lengthField len)[4 + n]'(by rw [length_lengthField]; omega) = BitVec.ofNat 8 (8 * len / 256 ^ (3 - n)) := by
  have hout : (List.replicate 4 (0x00#8 : Byte)).length ≤ 4 + n := Nat.le_add_right 4 n
  simp only [lengthField, List.getElem_append_right hout, getElem_bytesOf, List.length_replicate, Nat.add_sub_cancel_left,
    Nat.reduceSub]

/-- Within the limit the number PAD.LEN writes spells the length field. -/
theorem bytesOf_bitLength {len : Nat} (h : len < 2 ^ 29) : bytesOf 8 (bitLength len).toNat = lengthField len := by
  have hbits : (bitLength len).toNat = 8 * len := by
    rw [bitLength, BitVec.toNat_ofNat]
    omega
  have hhigh : 8 * len / 256 ^ 4 = 0 := by omega
  rw [hbits, bytesOf_add 4 4, hhigh]
  rfl

/-! ## Bytes appended to PBUF at PTR (40_padder.md rules R122 to R125) -/

/-- From `s` to `u` the padder has written `bs` to PBUF at PTR, moved PTR past it and left every other byte of PBUF. -/
structure Appended (bs : List Byte) (s u : State) : Prop where
  bytes : u.readBytes .pbuf s.ptr.toNat bs.length = bs
  others : SameOutside .pbuf s.ptr.toNat bs.length s u
  ptr : u.ptr.toNat = s.ptr.toNat + bs.length

section
variable {s u v : State}

theorem appended_nil (hptr : s.ptr = u.ptr) (hpbuf : s.pbuf = u.pbuf) : Appended [] s u where
  bytes := rfl
  others x _ := State.readByte_congr .pbuf x hpbuf.symm
  ptr := by simp [hptr]

/-- PBUF with a byte string written at PTR, and PTR past it inside its width. -/
theorem appended_of_writeBytes {bs : List Byte} (hpbuf : u.pbuf = (s.writeBytes .pbuf s.ptr.toNat bs).pbuf)
    (hptr : u.ptr = BitVec.ofNat 30 (s.ptr.toNat + bs.length)) (hbound : s.ptr.toNat + bs.length < 2 ^ 30) :
    Appended bs s u where
  bytes := by
    have hread := s.readBytes_writeBytes .pbuf s.ptr.toNat 0 bs.length bs (by omega)
    rw [Nat.add_zero, List.drop_zero, List.take_length] at hread
    exact (State.readBytes_congr fun x _ _ => State.readByte_congr .pbuf x hpbuf).trans hread
  others x hx := by
    rw [State.readByte_congr .pbuf x hpbuf, State.readByte_writeBytes, if_neg (by omega)]
  ptr := by rw [hptr, toNat_ptr_add hbound]

theorem appended_singleton {b : Byte} :
    Appended [b] s u ↔ u.readByte .pbuf s.ptr.toNat = b ∧ SameOutside .pbuf s.ptr.toNat 1 s u ∧
      u.ptr.toNat = s.ptr.toNat + 1 :=
  ⟨fun ⟨hbytes, hothers, hptr⟩ => ⟨List.singleton_inj.1 hbytes, hothers, hptr⟩,
    fun ⟨hread, hothers, hptr⟩ => ⟨congrArg (fun x => [x]) hread, hothers, hptr⟩⟩

/-- What is appended second stands after what was appended first. -/
theorem Appended.trans {xs ys : List Byte} (h1 : Appended xs s u) (h2 : Appended ys u v) : Appended (xs ++ ys) s v where
  bytes := by
    have hfirst : v.readBytes .pbuf s.ptr.toNat xs.length = xs :=
      (State.readBytes_congr fun x _ hx => h2.others x (Or.inl (hx.trans_eq h1.ptr.symm))).trans h1.bytes
    have hsecond : v.readBytes .pbuf (s.ptr.toNat + xs.length) ys.length = ys := h1.ptr ▸ h2.bytes
    rw [List.length_append, State.readBytes_add, hfirst, hsecond]
  others x hx := by
    have hptr := h1.ptr
    rw [List.length_append] at hx
    rw [h2.others x (by omega), h1.others x (by omega)]
  ptr := by rw [h2.ptr, h1.ptr, List.length_append, Nat.add_assoc]

/-- From PTR = 0 on, what has been appended is the whole buffer up to PTR. -/
theorem Appended.from_zero {bs : List Byte} (h : Appended bs s u) (hzero : s.ptr = 0) :
    u.readBytes .pbuf 0 bs.length = bs ∧ (∀ x, bs.length ≤ x → u.readByte .pbuf x = s.readByte .pbuf x) ∧
      u.ptr.toNat = bs.length := by
  obtain ⟨hbytes, hothers, hptr⟩ := h
  have hstart : s.ptr.toNat = 0 := by rw [hzero]; rfl
  rw [hstart] at hbytes hothers hptr
  rw [Nat.zero_add] at hptr
  exact ⟨hbytes, fun x hx => hothers x (Or.inr (by rwa [Nat.zero_add])), hptr⟩

/-- One byte at PTR, and the sequencer on to phase `p`: the step that PAD.COPY, PAD.MARK and PAD.ZERO share. -/
def State.appendByte (s : State) (b : Byte) (p : Phase) : State :=
  { (s.writeByte .pbuf s.ptr.toNat b).advancePtr 1 with phase := p }

theorem appendByte_appends (b : Byte) (p : Phase) (hbound : s.ptr.toNat + 8 ≤ 2 ^ 29 + 64) :
    (s.appendByte b p).readByte .pbuf s.ptr.toNat = b ∧ SameOutside .pbuf s.ptr.toNat 1 s (s.appendByte b p) ∧
      (s.appendByte b p).ptr.toNat = s.ptr.toNat + 1 ∧ (s.appendByte b p).phase = p ∧
      SameBut [.phase, .ptr, .pbuf] s (s.appendByte b p) := by
  have happended : Appended [b] s (s.appendByte b p) :=
    appended_of_writeBytes rfl rfl (by rw [List.length_singleton]; omega)
  obtain ⟨hread, hothers, hptr⟩ := appended_singleton.1 happended
  exact ⟨hread, hothers, hptr, rfl, by simp [sameBut_iff, State.appendByte]⟩

/-- Within the limits the length field is what PAD.LEN writes. -/
theorem appendLength_appends (hsmall : s.msgLen.toNat < 2 ^ 29) (hbound : s.ptr.toNat + 8 ≤ 2 ^ 29 + 64) :
    Appended (lengthField s.msgLen.toNat) s s.appendLength := by
  refine appended_of_writeBytes ?_ ?_ ?_
  · rw [State.appendLength_pbuf, State.memWrite, bytesOf_bitLength hsmall]
  · rw [State.appendLength_ptr, length_lengthField]
  · rw [length_lengthField]
    omega

end

/-! ## The five micro-operations -/

/-- Settles O23: the check has three outcomes, by MSG_LEN. -/
theorem padChkChecksTheSize : Obligations.PadChkChecksTheSize := by
  intro s hp hl
  have hempty : s.msgLen = 0 ↔ s.msgLen.toNat = 0 := by bv_omega
  refine ⟨_, State.microOp_runs _ hp hl, fun hlarge => ?_, fun hsmall => ?_⟩
  · rw [if_pos hlarge]
    simp [sameBut_iff]
  · rw [if_neg (Nat.not_le.2 hsmall)]
    simp only [hempty]
    split_ifs <;> simp [sameBut_iff]

/-- Settles O24: the byte appended is MSG[PTR]. -/
theorem padCopyCopiesOneByte : Obligations.PadCopyCopiesOneByte := fun s hp hl =>
  ⟨s.appendByte (s.readByte .msg s.ptr.toNat) _, State.microOp_runs _ hp hl,
    appendByte_appends _ _ (ptr_bound_of_legal hl (by simp [hp]))⟩

/-- Settles O25: the byte appended is the marker. -/
theorem padMarkAppendsTheMarker : Obligations.PadMarkAppendsTheMarker := fun s hp hl =>
  ⟨s.appendByte 0x80#8 _, State.microOp_runs _ hp hl, appendByte_appends _ _ (ptr_bound_of_legal hl (by simp [hp]))⟩

/-- Settles O26: the byte appended is 0. -/
theorem padZeroAppendsOneZero : Obligations.PadZeroAppendsOneZero := fun s hp hl =>
  ⟨s.appendByte 0x00#8 _, State.microOp_runs _ hp hl, appendByte_appends _ _ (ptr_bound_of_legal hl (by simp [hp]))⟩

/-- R42 (c) and R125: where PAD.LEN finds PTR and MSG_LEN. -/
theorem ptr_of_padLen {s : State} (hp : s.phase = .padLen) (hl : s.legal = true) :
    s.ptr.toNat % 64 = 56 ∧ s.msgLen.toNat < 2 ^ 29 ∧ s.ptr.toNat + 8 ≤ 2 ^ 29 + 64 := by
  obtain ⟨-, hpad, -⟩ := s.legal_iff.1 hl
  simpa [State.padLegal, State.ptrBounded, hp, and_assoc] using hpad

/-- PAD.LEN appends the length field, sets PLEN to PTR, and hands over under HASH or finishes. -/
theorem padLen_appends {s : State} (hp : s.phase = .padLen) (hl : s.legal = true) :
    ∃ u, exec .padLen s = .next u ∧ Appended (lengthField s.msgLen.toNat) s u ∧ u.plen = u.ptr ∧
      (s.mode = .hash → u.phase = .cmpChk ∧ u.done = s.done) ∧ (s.mode ≠ .hash → u.phase = .idle ∧ u.done = true) ∧
      SameBut [.phase, .ptr, .plen, .pbuf, .done] s u := by
  obtain ⟨-, hsmall, hbound⟩ := ptr_of_padLen hp hl
  obtain ⟨hbytes, hothers, hptr⟩ := appendLength_appends hsmall hbound
  refine ⟨_, State.microOp_runs _ hp hl, ?_⟩
  by_cases hm : s.mode = .hash
  · rw [if_pos hm]
    exact ⟨⟨hbytes, hothers, hptr⟩, by simp, fun _ => ⟨rfl, s.appendLength_done⟩, fun h => absurd hm h,
      by simp [sameBut_iff]⟩
  · rw [if_neg hm]
    exact ⟨⟨hbytes, hothers, hptr⟩, by simp, fun h => absurd h hm, fun _ => ⟨rfl, rfl⟩, by simp [sameBut_iff]⟩

/-- Settles O27: the field's bytes are those of `lengthField`, and PTR is 56 modulo 64 before it. -/
theorem padLenAppendsTheLengthField : Obligations.PadLenAppendsTheLengthField := by
  intro s hp hl
  obtain ⟨u, hu, happended, hplen, hhash, hpad, hframe⟩ := padLen_appends hp hl
  obtain ⟨hmod, -, -⟩ := ptr_of_padLen hp hl
  obtain ⟨hbytes, hothers, hptr⟩ := happended
  rw [length_lengthField] at hothers hptr
  have hbyte (i : Nat) (hi : i < 8) := State.readByte_of_readBytes hbytes (i := i) (by rwa [length_lengthField])
  refine ⟨u, hu, fun n hn => ?high, fun n hn => ?low, hothers, hptr, hplen ▸ hptr, ?_, hhash, hpad, hframe⟩
  case high =>
    rw [hbyte n (by omega), getElem_lengthField_high _ hn]
  case low =>
    rw [Nat.add_assoc, hbyte (4 + n) (by omega), getElem_lengthField_low _ hn, BitVec.toNat_ofNat]
  rw [hplen, hptr]
  omega

/-! ## The padder's run (40_padder.md rule R126) -/

/-- With nothing pending the turn is the sequencer's. -/
theorem step_of_pending_nil {s : State} (h : s.pending = []) : step s = exec s.phase.instr s := by
  rw [step_of_nextTurn (State.nextTurn_nil h), decode_phase_code]

/-- The control registers are as in a run, and the sequencer has the next turn. -/
structure PadTurn (s : State) : Prop where
  inv : s.PhaseInv
  quiet : s.pending = []

/-- `k` steps lead from `s` to `u` inside the invariant, append `bs` to PBUF and change nothing else but PHASE. -/
structure PadRun (k : Nat) (bs : List Byte) (s u : State) : Prop where
  run : runSteps k s = .next u
  inv : u.PhaseInv
  appended : Appended bs s u
  frame : SameBut [.phase, .ptr, .pbuf] s u

section
variable {s u v : State}

theorem PadRun.turn {k : Nat} {bs : List Byte} (h : PadRun k bs s u) (hs : PadTurn s) : PadTurn u :=
  ⟨h.inv, (h.frame .pending (by simp)).symm.trans hs.quiet⟩

theorem PadRun.msgLen_eq {k : Nat} {bs : List Byte} (h : PadRun k bs s u) : u.msgLen = s.msgLen :=
  (h.frame .msgLen (by simp)).symm

theorem PadRun.readBytes_msg {k : Nat} {bs : List Byte} (h : PadRun k bs s u) (a n : Nat) :
    u.readBytes .msg a n = s.readBytes .msg a n :=
  State.readBytes_congr fun x _ _ => State.readByte_congr .msg x (h.frame .msg (by simp)).symm

theorem PadRun.refl (hs : PadTurn s) : PadRun 0 [] s s :=
  ⟨rfl, hs.inv, appended_nil rfl rfl, SameBut.refl _ s⟩

theorem PadRun.trans {j k : Nat} {xs ys : List Byte} (h1 : PadRun j xs s u) (h2 : PadRun k ys u v) :
    PadRun (j + k) (xs ++ ys) s v :=
  ⟨(runSteps_add j k h1.run).trans h2.run, h2.inv, h1.appended.trans h2.appended, h1.frame.trans h2.frame⟩

/-- The sequencer's turn is a run of one step. -/
theorem PadTurn.runSteps_one {p : Phase} (hs : PadTurn s) (hp : s.phase = p) (hu : exec p.instr s = .next u) :
    runSteps 1 s = .next u :=
  runSteps_succ 0 ((step_of_pending_nil hs.quiet).trans (hp ▸ hu))

theorem PadRun.of_exec {p : Phase} {bs : List Byte} (hs : PadTurn s) (hp : s.phase = p) (hu : exec p.instr s = .next u)
    (happended : Appended bs s u) (hframe : SameBut [.phase, .ptr, .pbuf] s u) : PadRun 1 bs s u :=
  ⟨hs.runSteps_one hp hu, exec_phaseInv hs.inv hu, happended, hframe⟩

/-- PAD.COPY runs until the message's last byte is copied. -/
theorem padCopy_run (n : Nat) (hs : PadTurn s) (hn : s.ptr.toNat + n = s.msgLen.toNat)
    (hp : s.phase = if s.ptr.toNat < s.msgLen.toNat then .padCopy else .padMark) :
    ∃ u, PadRun n (s.readBytes .msg s.ptr.toNat n) s u ∧ u.phase = .padMark := by
  induction n generalizing s with
  | zero =>
    rw [if_neg (by omega)] at hp
    exact ⟨s, PadRun.refl hs, hp⟩
  | succ n ih =>
    rw [if_pos (by omega)] at hp
    obtain ⟨v, hv, hread, hothers, hptr, hphase, hframe⟩ := padCopyCopiesOneByte s hp (State.legal_of_phaseInv hs.inv)
    have hstep := PadRun.of_exec hs hp hv (appended_singleton.2 ⟨hread, hothers, hptr⟩) hframe
    have hlen := hstep.msgLen_eq
    obtain ⟨u, hrun, hend⟩ := ih (hstep.turn hs) (by rw [hlen]; omega) (by rw [hphase, hptr, hlen])
    rw [hptr, hstep.readBytes_msg] at hrun
    rw [Nat.add_comm n 1, State.readBytes_add, State.readBytes_one]
    exact ⟨u, hstep.trans hrun, hend⟩

/-- PAD.ZERO runs until the length field's place is reached. -/
theorem padZero_run (n : Nat) (hs : PadTurn s) (hn : n = (120 - s.ptr.toNat % 64) % 64)
    (hp : s.phase = if s.ptr.toNat % 64 = 56 then .padLen else .padZero) :
    ∃ u, PadRun n (List.replicate n 0x00#8) s u ∧ u.phase = .padLen := by
  induction n generalizing s with
  | zero =>
    rw [if_pos (by omega)] at hp
    exact ⟨s, PadRun.refl hs, hp⟩
  | succ n ih =>
    rw [if_neg (by omega)] at hp
    obtain ⟨v, hv, hread, hothers, hptr, hphase, hframe⟩ := padZeroAppendsOneZero s hp (State.legal_of_phaseInv hs.inv)
    have hstep := PadRun.of_exec hs hp hv (appended_singleton.2 ⟨hread, hothers, hptr⟩) hframe
    obtain ⟨u, hrun, hend⟩ := ih (hstep.turn hs) (by omega) (by rw [hphase, hptr])
    have hboth := hstep.trans hrun
    rw [Nat.add_comm 1 n] at hboth
    exact ⟨u, hboth, hend⟩

/-- PAD.CHK lets a message within the limit pass and writes no byte. -/
theorem padChk_run (hs : PadTurn s) (hp : s.phase = .padChk) (hptr : s.ptr = 0) (hsmall : s.msgLen.toNat < 2 ^ 29) :
    ∃ u, PadRun 1 [] s u ∧ u.phase = if u.ptr.toNat < u.msgLen.toNat then .padCopy else .padMark := by
  obtain ⟨u, hu, -, hpass⟩ := padChkChecksTheSize s hp (State.legal_of_phaseInv hs.inv)
  obtain ⟨hphase, hframe⟩ := hpass hsmall
  have hptr' : s.ptr = u.ptr := hframe .ptr (by simp)
  have hrun := PadRun.of_exec hs hp hu (appended_nil hptr' (hframe .pbuf (by simp)))
    (hframe.mono (by simp))
  refine ⟨u, hrun, ?_⟩
  rw [hphase, hrun.msgLen_eq, ← hptr', hptr, ← ite_not]
  exact if_congr Nat.pos_iff_ne_zero.symm rfl rfl

/-- PAD.MARK appends the marker. -/
theorem padMark_run (hs : PadTurn s) (hp : s.phase = .padMark) :
    ∃ u, PadRun 1 [0x80#8] s u ∧ u.phase = if u.ptr.toNat % 64 = 56 then .padLen else .padZero := by
  obtain ⟨u, hu, hread, hothers, hptr, hphase, hframe⟩ := padMarkAppendsTheMarker s hp (State.legal_of_phaseInv hs.inv)
  have happended := appended_singleton.2 ⟨hread, hothers, hptr⟩
  exact ⟨u, PadRun.of_exec hs hp hu happended hframe, hptr ▸ hphase⟩

/-- In PAD_CHK the invariants of rule R42 and PTR = 0 are all that the run's invariant asks. -/
theorem phaseInv_of_padChk (hp : s.phase = .padChk) (hl : s.legal = true) (hptr : s.ptr = 0) : s.PhaseInv := by
  obtain ⟨hstatus, -, ht, -, hmode⟩ := s.legal_iff.1 hl
  obtain ⟨hfault, hdone⟩ := statusLegal_iff.1 hstatus
  simp only [hp, reduceCtorEq, false_iff, not_not, false_and, imp_false, Bool.not_eq_true] at hfault hdone
  have hzero : s.t = 0 := (t_of_tLegal ht).2.2.2 (by simp [hp])
  have hpadder := (mode_of_modeLegal hmode).1 (by simp [hp])
  simp only [State.PhaseInv, hp]
  exact ⟨⟨⟨hdone, hfault⟩, hzero, hpadder⟩, hptr⟩

/-- From PAD_CHK to PAD_LEN: the message, the marker and the zeros stand in PBUF. -/
theorem run_to_padLen (hs : PadTurn s) (hp : s.phase = .padChk) (hptr : s.ptr = 0) (hsmall : s.msgLen.toNat < 2 ^ 29) :
    ∃ u, PadRun (1 + s.msgLen.toNat + 1 + zeroBytes s.msgLen.toNat)
      (s.message ++ [0x80#8] ++ List.replicate (zeroBytes s.msgLen.toNat) 0x00#8) s u ∧ u.phase = .padLen := by
  obtain ⟨a, hcheck, ha⟩ := padChk_run hs hp hptr hsmall
  have hptrA : a.ptr.toNat = 0 := by rw [hcheck.appended.ptr, hptr]; rfl
  obtain ⟨b, hcopy, hb⟩ := padCopy_run s.msgLen.toNat (hcheck.turn hs) (by rw [hptrA, hcheck.msgLen_eq, Nat.zero_add]) ha
  rw [hptrA, hcheck.readBytes_msg] at hcopy
  have hcopied : PadRun (1 + s.msgLen.toNat) s.message s b := hcheck.trans hcopy
  obtain ⟨c, hmark, hc⟩ := padMark_run (hcopied.turn hs) hb
  have hmarked := hcopied.trans hmark
  have hptrC : c.ptr.toNat = s.msgLen.toNat + 1 := by
    rw [hmarked.appended.ptr, hptr]
    simp [State.message]
  obtain ⟨u, hzero, hu⟩ := padZero_run (zeroBytes s.msgLen.toNat) (hmarked.turn hs) (by rw [hptrC, zeroBytes]; omega) hc
  exact ⟨u, hmarked.trans hzero, hu⟩

end

/-- Settles O54: the run to PAD_LEN, and PAD.LEN closes the buffer with the length field. -/
theorem padderRunPadsTheMessage : Obligations.PadderRunPadsTheMessage := by
  intro s hp hl hptr hquiet hsmall n
  have hs : PadTurn s := ⟨phaseInv_of_padChk hp hl hptr, hquiet⟩
  obtain ⟨v, hrun, hv⟩ := run_to_padLen hs hp hptr hsmall
  obtain ⟨u, hu, hfield, hplen, hhash, hpad, hframe⟩ := padLen_appends hv (State.legal_of_phaseInv hrun.inv)
  have hsteps : n - 6 = 1 + s.msgLen.toNat + 1 + zeroBytes s.msgLen.toNat + 1 := by
    simp only [n, paddedLength]
    omega
  have hlast : runSteps 1 v = .next u := (hrun.turn hs).runSteps_one hv hu
  have hlen : s.message.length = s.msgLen.toNat := State.length_readBytes ..
  have happended : Appended (s.message ++ padding s.message.length) s u := by
    have hboth := hrun.appended.trans hfield
    rwa [hrun.msgLen_eq, ← hlen, List.append_assoc, List.append_assoc, ← List.append_assoc [_]] at hboth
  obtain ⟨hbytes, hothers, hptr'⟩ := happended.from_zero hptr
  have hbuffer : u.paddedBuffer = s.message ++ padding s.message.length := by
    rw [State.paddedBuffer, hplen, hptr', hbytes]
  rw [length_append_padding, hlen] at hothers hptr'
  rw [← hrun.frame .mode (by simp), ← hrun.frame .done (by simp)] at hhash
  rw [← hrun.frame .mode (by simp)] at hpad
  refine ⟨u, ?run, ?buffer, hplen ▸ hptr', hptr', hothers, hhash, hpad, (hrun.frame.mono (by simp)).trans hframe⟩
  case run => rw [hsteps, runSteps_add _ 1 hrun.run, hlast]
  case buffer => rw [hbuffer, padMessage_of_lt (hlen ▸ hsmall)]

end Sys2Proof.Machine

namespace Sys2Proof.Machine

/-! ## Big-endian numbers, byte by byte and bit by bit (20_memory.md rule R62, 30_encoding.md rule R95) -/

theorem numberOf_lt (bs : List Byte) : numberOf bs < 2 ^ (8 * bs.length) := by
  induction bs with
  | nil => simp [numberOf]
  | cons b bs ih =>
    have hb : b.toNat + 1 ≤ 2 ^ 8 := b.isLt
    calc numberOf (b :: bs)
        < b.toNat * 2 ^ (8 * bs.length) + 2 ^ (8 * bs.length) := by
          rw [numberOf, Nat.pow_mul]
          exact Nat.add_lt_add_left (Nat.pow_mul .. ▸ ih) _
      _ = (b.toNat + 1) * 2 ^ (8 * bs.length) := (Nat.succ_mul ..).symm
      _ ≤ 2 ^ 8 * 2 ^ (8 * bs.length) := Nat.mul_le_mul_right _ hb
      _ = 2 ^ (8 * (b :: bs).length) := by rw [← Nat.pow_add, List.length_cons, Nat.mul_succ, Nat.add_comm]

/-- The first byte holds the most significant bits, the last byte bits 7 to 0. -/
theorem testBit_numberOf (bs : List Byte) {i : Nat} (hi : i < 8 * bs.length) :
    (numberOf bs).testBit i = (bs.getD (bs.length - 1 - i / 8) 0).getLsbD (i % 8) := by
  induction bs with
  | nil => simp at hi
  | cons b bs ih =>
    have hsplit : numberOf (b :: bs) = 2 ^ (8 * bs.length) * b.toNat + numberOf bs := by
      rw [numberOf, Nat.pow_mul, Nat.mul_comm]
    rw [List.length_cons] at hi
    rw [hsplit, Nat.testBit_two_pow_mul_add _ (numberOf_lt bs)]
    split_ifs with hlow
    · have hindex : (b :: bs).length - 1 - i / 8 = (bs.length - 1 - i / 8) + 1 := by
        rw [List.length_cons]
        omega
      rw [hindex, List.getD_cons_succ, ih hlow]
    · have hindex : (b :: bs).length - 1 - i / 8 = 0 := by
        rw [List.length_cons]
        omega
      have hbit : i - 8 * bs.length = i % 8 := by omega
      rw [hindex, List.getD_cons_zero, hbit]
      rfl

theorem toNat_be32 {bs : List Byte} (h : bs.length = 4) : (be32 bs).toNat =
    (bs.getD 0 0).toNat * 2 ^ 24 + (bs.getD 1 0).toNat * 2 ^ 16 + (bs.getD 2 0).toNat * 2 ^ 8 + (bs.getD 3 0).toNat := by
  have hfits : numberOf bs < 2 ^ 32 := by simpa [h] using numberOf_lt bs
  rw [be32, BitVec.toNat_ofNat, Nat.mod_eq_of_lt hfits]
  obtain ⟨a, b, c, d, rfl⟩ := List.length_eq_four.1 h
  simp [numberOf, Nat.add_assoc]

theorem getLsbD_be32 {bs : List Byte} (h : bs.length = 4) {i : Nat} (hi : i < 32) :
    (be32 bs).getLsbD i = (bs.getD (3 - i / 8) 0).getLsbD (i % 8) := by
  have hbits := testBit_numberOf bs (i := i) (by omega)
  rw [h] at hbits
  rw [be32, BitVec.getLsbD_ofNat, hbits, decide_eq_true hi, Bool.true_and]

/-! ## The schedule of a block (41_schedule.md rule R144) -/

theorem length_extendSchedule (n : Nat) (ws : List Word) : (extendSchedule n ws).length = ws.length + n := by
  induction n generalizing ws with
  | zero => rfl
  | succ n ih =>
    rw [extendSchedule, ih, List.length_append, List.length_singleton]
    omega

/-- Extending a schedule keeps the words it has already. -/
theorem getD_extendSchedule_of_lt (n : Nat) {ws : List Word} {i : Nat} (hi : i < ws.length) :
    (extendSchedule n ws).getD i 0 = ws.getD i 0 := by
  induction n generalizing ws with
  | zero => rfl
  | succ n ih =>
    rw [extendSchedule, ih (Nat.lt_of_lt_of_le hi (by simp)), List.getD_append _ _ _ _ hi]

/-- A word added is derived from the words 16, 15, 7 and 2 before it. -/
theorem getD_extendSchedule_of_ge {n : Nat} {ws : List Word} {t : Nat} (hws : 16 ≤ ws.length) (ht : ws.length ≤ t)
    (htn : t < ws.length + n) :
    (extendSchedule n ws).getD t 0 =
      expandWord ((extendSchedule n ws).getD (t - 16) 0) ((extendSchedule n ws).getD (t - 15) 0)
        ((extendSchedule n ws).getD (t - 7) 0) ((extendSchedule n ws).getD (t - 2) 0) := by
  induction n generalizing ws with
  | zero => omega
  | succ n ih =>
    obtain rfl | hlater := ht.eq_or_lt
    · have hold (k : Nat) (hk : 0 < k) := getD_extendSchedule_of_lt (n + 1) (show ws.length - k < ws.length by omega)
      rw [hold 16 (by omega), hold 15 (by omega), hold 7 (by omega), hold 2 (by omega), extendSchedule,
        getD_extendSchedule_of_lt n (by simp)]
      simp
    · rw [extendSchedule]
      exact ih (by simp; omega) (by simpa using hlater) (by simp; omega)

theorem length_blockWords (block : List Byte) : (blockWords block).length = 16 := by
  simp [blockWords]

theorem length_schedule (block : List Byte) : (schedule block).length = 64 := by
  rw [schedule, length_extendSchedule, length_blockWords]

/-- Word `t` below 16 is read from the four bytes of the block from `4t` on. -/
theorem getD_schedule_of_lt (block : List Byte) {t : Nat} (ht : t < 16) :
    (schedule block).getD t 0 = be32 ((block.drop (4 * t)).take 4) := by
  have hin : t < (blockWords block).length := by rwa [length_blockWords]
  rw [schedule, getD_extendSchedule_of_lt 48 hin, List.getD_eq_getElem _ _ hin]
  simp [blockWords]

theorem getD_take_drop (block : List Byte) (k : Nat) {j : Nat} (hj : j < 4) :
    ((block.drop k).take 4).getD j 0 = block.getD (k + j) 0 := by
  simp [List.getD_eq_getElem?_getD, List.getElem?_take_of_lt hj]

/-- Settles O50: the first 16 words are the block's, read big-endian, and every later one is derived from four words before it. -/
theorem scheduleIsTheRecurrence : Obligations.ScheduleIsTheRecurrence := by
  intro block hblock ws
  have hfour (t : Nat) (ht : t < 16) : ((block.drop (4 * t)).take 4).length = 4 := by
    rw [List.length_take, List.length_drop]
    omega
  refine ⟨length_schedule block, fun t ht => ?bytes, fun t ht i hi => ?bits, fun t hlow hhigh => ?recurrence⟩
  case bytes =>
    rw [getD_schedule_of_lt block ht, toNat_be32 (hfour t ht)]
    simp only [getD_take_drop, Nat.reduceLT, Nat.add_zero]
  case bits =>
    have hindex : 4 * t + 3 - i / 8 = 4 * t + (3 - i / 8) := by omega
    rw [getD_schedule_of_lt block ht, getLsbD_be32 (hfour t ht) hi, getD_take_drop block _ (by omega), hindex]
  case recurrence =>
    have hsixteen := length_blockWords block
    exact getD_extendSchedule_of_ge (by omega) (by omega) (by omega)

/-! ## The two micro-operations (41_schedule.md rules R142, R143) -/

/-- W after W[T] is written. -/
theorem wAt_setW (s : State) (x : Word) (j : Nat) : (s.setW x).wAt j = if j = s.t.toNat then x else s.wAt j := by
  rw [State.wAt, State.wAt, State.setW_w, Vector.toArray_set, Array.getD_eq_getD_getElem?, Array.getElem?_set,
    Array.getD_eq_getD_getElem?]
  by_cases hj : j = s.t.toNat
  · rw [if_pos hj, if_pos hj.symm]
    rfl
  · rw [if_neg hj, if_neg (Ne.symm hj)]

/-- Only W[T] is written. -/
theorem wAt_setW_writesOne (s : State) (x : Word) :
    (s.setW x).wAt s.t.toNat = x ∧ ∀ j < 64, j ≠ s.t.toNat → (s.setW x).wAt j = s.wAt j :=
  ⟨by rw [wAt_setW, if_pos rfl], fun j _ hj => by rw [wAt_setW, if_neg hj]⟩

/-- Settles O28: the word read is big-endian in the four bytes from `64 BLK + 4 T` on. -/
theorem msxLoadLoadsOneWord : Obligations.MsxLoadLoadsOneWord := by
  intro s hp hl a
  obtain ⟨-, -, ht, -⟩ := s.legal_iff.1 hl
  obtain ⟨hrange, -⟩ := t_of_tLegal ht
  have hlast : s.t.toNat ≤ 15 := hrange hp
  have hword : s.loadedWord.toNat = (s.readByte .pbuf a).toNat * 2 ^ 24 + (s.readByte .pbuf (a + 1)).toNat * 2 ^ 16 +
      (s.readByte .pbuf (a + 2)).toNat * 2 ^ 8 + (s.readByte .pbuf (a + 3)).toNat :=
    toNat_be32 (s.length_readBytes .pbuf a 4)
  obtain ⟨hwrite, hothers⟩ := wAt_setW_writesOne s s.loadedWord
  rw [← hwrite] at hword
  refine ⟨_, State.microOp_runs _ hp hl, ?_⟩
  split_ifs with hmore
  · exact ⟨hword, hothers, fun _ => ⟨toNat_t_add_one (by omega), hp⟩, fun h => by omega, by simp [sameBut_iff]⟩
  · exact ⟨hword, hothers, fun h => absurd h hmore, fun _ => ⟨rfl, rfl⟩, by simp [sameBut_iff]⟩

/-- Settles O29: the word derived is the right side of the recurrence. -/
theorem msxExpDerivesOneWord : Obligations.MsxExpDerivesOneWord := by
  intro s hp hl n
  obtain ⟨-, -, ht, -⟩ := s.legal_iff.1 hl
  obtain ⟨-, hrange, -⟩ := t_of_tLegal ht
  have hlow : 16 ≤ n := hrange hp
  obtain ⟨hword, hothers⟩ := wAt_setW_writesOne s s.expandedWord
  refine ⟨_, State.microOp_runs _ hp hl, ?_⟩
  split_ifs with hmore
  · exact ⟨hword, hothers, fun _ => ⟨toNat_t_add_one hmore, hp⟩, fun h => by omega, hlow, by simp [sameBut_iff]⟩
  · exact ⟨hword, hothers, fun h => absurd h hmore, fun _ => ⟨rfl, rfl⟩, hlow, by simp [sameBut_iff]⟩

/-! ## The schedule's run (41_schedule.md rule R145) -/

/-- In a phase that processes a block the invariants of rule R42 are all that the run's invariant asks. -/
theorem phaseInv_of_onBlock {s : State} (hp : s.phase ∈ [Phase.msxLoad, .msxExp, .rndInit, .rndStep, .accAdd])
    (hl : s.legal = true) : s.PhaseInv := by
  obtain ⟨hstatus, -, ht, hblock, hmode⟩ := s.legal_iff.1 hl
  obtain ⟨hfault, hdone⟩ := statusLegal_iff.1 hstatus
  obtain ⟨hload, hexp, -, hzero⟩ := t_of_tLegal ht
  obtain ⟨-, hcompressor, -⟩ := mode_of_modeLegal hmode
  have hin := block_of_blockLegal hblock hp
  unfold State.PhaseInv State.OnBlock State.Compressing State.Running
  simp only [List.mem_cons, List.not_mem_nil, or_false] at hp
  obtain hp | hp | hp | hp | hp := hp <;> simp_all

theorem getD_block (s : State) (b : Nat) {i : Nat} (hi : i < 64) :
    (s.block b).getD i 0 = s.readByte .pbuf (64 * b + i) := by
  simp [State.block, State.readBytes, List.getD_eq_getElem?_getD, hi]

/-- The phase in which word `n` of the schedule is written; the round engine's first after the last word. -/
def schedulePhase (n : Nat) : Phase :=
  if n < 16 then .msxLoad else if n < 64 then .msxExp else .rndInit

/-- The schedule PBUF's current block has. -/
def State.blockSchedule (s : State) : List Word :=
  schedule (s.block s.blk.toNat)

/-- The expander is to write word `n`, and the words before it are those of the block's schedule. -/
structure State.ScheduledTo (s : State) (n : Nat) : Prop where
  phase : s.phase = schedulePhase n
  t : s.t = BitVec.ofNat 6 n
  words : ∀ i < n, s.wAt i = s.blockSchedule.getD i 0

section
variable {s u : State} {n : Nat}

theorem blockSchedule_congr (h : SameBut [.phase, .t, .w] s u) : u.blockSchedule = s.blockSchedule := by
  have hblk : s.blk = u.blk := h .blk (by simp)
  have hpbuf : s.pbuf = u.pbuf := h .pbuf (by simp)
  rw [State.blockSchedule, State.blockSchedule, State.block, State.block, hblk,
    State.readBytes_congr fun x _ _ => State.readByte_congr .pbuf x hpbuf]

theorem State.ScheduledTo.toNat_t (h : s.ScheduledTo n) (hn : n < 64) : s.t.toNat = n := by
  rw [h.t, BitVec.toNat_ofNat, Nat.mod_eq_of_lt hn]

/-- One word more, from a step that writes W[n] alone and moves T on. -/
theorem State.ScheduledTo.succ (h : s.ScheduledTo n) (hn : n < 64) (hphase : u.phase = schedulePhase (n + 1))
    (ht : u.t.toNat = (n + 1) % 64) (hword : u.wAt n = s.blockSchedule.getD n 0)
    (hothers : ∀ j < 64, j ≠ n → u.wAt j = s.wAt j) (hframe : SameBut [.phase, .t, .w] s u) : u.ScheduledTo (n + 1) where
  phase := hphase
  t := BitVec.eq_of_toNat_eq (by rw [ht, BitVec.toNat_ofNat])
  words i hi := by
    rw [blockSchedule_congr hframe]
    obtain hlt | rfl := Nat.lt_succ_iff_lt_or_eq.1 hi
    · rw [hothers i (by omega) (by omega), h.words i hlt]
    · exact hword

/-- MSX.LOAD reads a word below 16 of the schedule. -/
theorem State.ScheduledTo.msxLoad (h : s.ScheduledTo n) (hn : n < 16) (hl : s.legal = true) :
    ∃ u, exec .msxLoad s = .next u ∧ u.ScheduledTo (n + 1) ∧ SameBut [.phase, .t, .w] s u := by
  have hp : s.phase = .msxLoad := by rw [h.phase, schedulePhase, if_pos hn]
  obtain ⟨u, hu, hsum, hothers, hmore, hlast, hframe⟩ := msxLoadLoadsOneWord s hp hl
  rw [h.toNat_t (by omega)] at hsum hothers hmore hlast
  obtain ⟨-, hfirst, -, -⟩ := scheduleIsTheRecurrence (s.block s.blk.toNat) (State.length_readBytes ..)
  have hbytes := hfirst n hn
  have hword : u.wAt n = s.blockSchedule.getD n 0 := by
    apply BitVec.eq_of_toNat_eq
    simp (disch := omega) only [getD_block, ← Nat.add_assoc] at hbytes
    exact hsum.trans hbytes.symm
  refine ⟨u, hu, ?_, hframe⟩
  obtain hn' | rfl : n < 15 ∨ n = 15 := by omega
  · obtain ⟨ht, hphase⟩ := hmore hn'
    exact h.succ (by omega) (by rw [hphase, schedulePhase, if_pos (by omega)]) (by omega) hword hothers hframe
  · obtain ⟨ht, hphase⟩ := hlast rfl
    exact h.succ (by omega) hphase ht hword hothers hframe

/-- MSX.EXP derives a word from 16 on of the schedule. -/
theorem State.ScheduledTo.msxExp (h : s.ScheduledTo n) (hlow : 16 ≤ n) (hn : n < 64) (hl : s.legal = true) :
    ∃ u, exec .msxExp s = .next u ∧ u.ScheduledTo (n + 1) ∧ SameBut [.phase, .t, .w] s u := by
  have hp : s.phase = .msxExp := by rw [h.phase, schedulePhase, if_neg (by omega), if_pos hn]
  obtain ⟨u, hu, hsum, hothers, hmore, hlast, -, hframe⟩ := msxExpDerivesOneWord s hp hl
  rw [h.toNat_t hn] at hsum hothers hmore hlast
  obtain ⟨-, -, -, hlater⟩ := scheduleIsTheRecurrence (s.block s.blk.toNat) (State.length_readBytes ..)
  have hrec := hlater n hlow hn
  have hword : u.wAt n = s.blockSchedule.getD n 0 := by
    simp (disch := omega) only [h.words] at hsum
    exact hsum.trans hrec.symm
  refine ⟨u, hu, ?_, hframe⟩
  obtain hn' | rfl : n < 63 ∨ n = 63 := by omega
  · obtain ⟨ht, hphase⟩ := hmore hn'
    have hnext : schedulePhase (n + 1) = .msxExp := by rw [schedulePhase, if_neg (by omega), if_pos (by omega)]
    exact h.succ hn (hphase.trans hnext.symm) (by omega) hword hothers hframe
  · obtain ⟨ht, hphase⟩ := hlast rfl
    exact h.succ hn hphase ht hword hothers hframe

/-- Either micro-operation adds the next word. -/
theorem State.ScheduledTo.step (h : s.ScheduledTo n) (hn : n < 64) (hl : s.legal = true) :
    ∃ u, exec s.phase.instr s = .next u ∧ u.ScheduledTo (n + 1) ∧ SameBut [.phase, .t, .w] s u := by
  rw [h.phase, schedulePhase]
  obtain hload | hexp := Nat.lt_or_ge n 16
  · rw [if_pos hload]
    exact h.msxLoad hload hl
  · rw [if_neg (Nat.not_lt.2 hexp), if_pos hn]
    exact h.msxExp hexp hn hl

/-- `k` turns of the sequencer add `k` words. -/
theorem State.ScheduledTo.run (k : Nat) (hs : PadTurn s) (h : s.ScheduledTo n) (hk : n + k ≤ 64) :
    ∃ u, runSteps k s = .next u ∧ u.ScheduledTo (n + k) ∧ SameBut [.phase, .t, .w] s u := by
  induction k generalizing s n with
  | zero => exact ⟨s, rfl, h, SameBut.refl _ s⟩
  | succ k ih =>
    obtain ⟨v, hv, hnext, hframe⟩ := h.step (by omega) (State.legal_of_phaseInv hs.inv)
    have hquiet : v.pending = [] := (hframe .pending (by simp)).symm.trans hs.quiet
    obtain ⟨u, hrun, hend, hrest⟩ := ih ⟨exec_phaseInv hs.inv hv, hquiet⟩ hnext (by omega)
    rw [Nat.add_right_comm, Nat.add_assoc] at hend
    exact ⟨u, (runSteps_succ k ((step_of_pending_nil hs.quiet).trans hv)).trans hrun, hend, hframe.trans hrest⟩

/-- With all 64 words written W is the block's schedule. -/
theorem State.ScheduledTo.toList_w (h : s.ScheduledTo 64) : s.w.toList = s.blockSchedule := by
  refine List.ext_getElem (by rw [Vector.length_toList, State.blockSchedule, length_schedule]) fun i hi hi' => ?_
  rw [Vector.length_toList] at hi
  have hword := h.words i hi
  rw [List.getD_eq_getElem _ _ hi'] at hword
  rw [← hword]
  simp [State.wAt, hi]

end

/-- Settles O55: no word is written at first, so the old W does not matter, and 64 turns write all words. -/
theorem scheduleRunExpandsTheBlock : Obligations.ScheduleRunExpandsTheBlock := by
  intro s hp hl ht hquiet
  have hs : PadTurn s := ⟨phaseInv_of_onBlock (by simp [hp]) hl, hquiet⟩
  have hstart : s.ScheduledTo 0 := ⟨hp, ht, fun i hi => absurd hi (Nat.not_lt_zero i)⟩
  obtain ⟨u, hrun, hend, hframe⟩ := hstart.run 64 hs (Nat.le_refl 64)
  exact ⟨u, hrun, hend.phase, hend.t, hend.toList_w.trans (blockSchedule_congr hframe), hframe⟩

end Sys2Proof.Machine

namespace Sys2Proof.Machine

/-! ## Ch and Maj, bit by bit (42_round_engine.md rules R155, R156) -/

/-- A bit of `x` chooses between the bits of `y` and of `z`. -/
theorem getLsbD_ch (x y z : Word) (i : Nat) :
    (ch x y z).getLsbD i = if x.getLsbD i then y.getLsbD i else z.getLsbD i := by
  have hz : (decide (i < 32) && z.getLsbD i) = z.getLsbD i := by
    simpa using BitVec.lt_of_getLsbD
  simp only [ch, BitVec.getLsbD_xor, BitVec.getLsbD_and, BitVec.getLsbD_not]
  cases x.getLsbD i <;> simp [hz]

/-- Maj's bit is 1 exactly where at least two of the three bits are. -/
theorem getLsbD_maj (x y z : Word) (i : Nat) :
    (maj x y z).getLsbD i = ((x.getLsbD i && y.getLsbD i) || (x.getLsbD i && z.getLsbD i) || (y.getLsbD i && z.getLsbD i)) := by
  simp only [maj, BitVec.getLsbD_xor, BitVec.getLsbD_and]
  cases x.getLsbD i <;> cases y.getLsbD i <;> simp

theorem ch_self (x y : Word) : ch x y y = y :=
  BitVec.eq_of_getLsbD_eq fun i _ => by rw [getLsbD_ch, ite_self]

theorem maj_self (x z : Word) : maj x x z = x := by
  rw [maj, BitVec.and_self, BitVec.xor_assoc, BitVec.xor_self, BitVec.xor_zero]

theorem maj_comm_left (x y z : Word) : maj x y z = maj y x z := by
  rw [maj, maj, BitVec.and_comm y x, BitVec.xor_assoc, BitVec.xor_assoc, BitVec.xor_comm (x &&& z)]

theorem maj_comm_right (x y z : Word) : maj x y z = maj x z y := by
  rw [maj, maj, BitVec.and_comm z y, BitVec.xor_comm (x &&& y)]

theorem ch_allOnes (y z : Word) : ch (BitVec.allOnes 32) y z = y :=
  BitVec.eq_of_getLsbD_eq fun i hi => by rw [getLsbD_ch, BitVec.getLsbD_allOnes, decide_eq_true hi, if_pos rfl]

theorem ch_zero (y z : Word) : ch 0#32 y z = z :=
  BitVec.eq_of_getLsbD_eq fun i _ => by rw [getLsbD_ch, BitVec.getLsbD_zero, if_neg Bool.false_ne_true]

theorem maj_zero (y z : Word) : maj 0#32 y z = y &&& z := by
  rw [maj, BitVec.zero_and, BitVec.zero_and, BitVec.zero_xor, BitVec.zero_xor]

theorem maj_allOnes (y z : Word) : maj (BitVec.allOnes 32) y z = y ||| z :=
  BitVec.eq_of_getLsbD_eq fun i hi => by
    rw [getLsbD_maj, BitVec.getLsbD_or, BitVec.getLsbD_allOnes, decide_eq_true hi]
    cases y.getLsbD i <;> simp

/-- Settles O48: the bits say which bit is chosen and where two agree, and the corner cases follow. -/
theorem chChoosesAndMajTakesTheMajority : Obligations.ChChoosesAndMajTakesTheMajority := fun x y z =>
  ⟨rfl, rfl, getLsbD_ch x y z, getLsbD_maj x y z, maj_comm_left x y z, maj_comm_right x y z, ch_allOnes y z, ch_zero y z,
    ch_self x y, maj_self x z, maj_allOnes y z, maj_zero y z, by decide, by decide⟩

/-! ## The inverse of a round (42_round_engine.md rules R161, R162) -/

/-- The six words a round only moves, in the places they had before it; the other two, d and h, as 0. -/
def movedBack (v : Vector Word 8) : Vector Word 8 :=
  #v[v[1], v[2], v[3], 0, v[5], v[6], v[7], 0]

/-- T1 of the round that led to `v`: the new a is T1 + T2, and T2 reads moved words alone. -/
def recoveredT1 (v : Vector Word 8) : Word :=
  v[0] - roundT2 (movedBack v)

/-- What was there before the round that led to `v`: d and h from T1. -/
def roundInverse (v : Vector Word 8) (k w : Word) : Vector Word 8 :=
  #v[v[1], v[2], v[3], v[4] - recoveredT1 v, v[5], v[6], v[7], recoveredT1 v - roundT1 (movedBack v) k w]

theorem vector8_eta (v : Vector Word 8) : #v[v[0], v[1], v[2], v[3], v[4], v[5], v[6], v[7]] = v := by
  ext i hi
  interval_cases i <;> rfl

/-- T1 is the sum of the old h and what the moved words give. -/
theorem roundT1_eq_add (v v' : Vector Word 8) (k w : Word) (h4 : v[4] = v'[5]) (h5 : v[5] = v'[6]) (h6 : v[6] = v'[7]) :
    roundT1 v k w = v[7] + roundT1 (movedBack v') k w := by
  simp [roundT1, movedBack, h4, h5, h6, add_assoc]

theorem recoveredT1_oneRound (v : Vector Word 8) (k w : Word) : recoveredT1 (oneRound v k w) = roundT1 v k w :=
  add_sub_cancel_right (roundT1 v k w) (roundT2 v)

theorem roundInverse_oneRound (v : Vector Word 8) (k w : Word) : roundInverse (oneRound v k w) k w = v := by
  have hd : v[3] + roundT1 v k w - roundT1 v k w = v[3] := add_sub_cancel_right ..
  have hh : roundT1 v k w - roundT1 (movedBack (oneRound v k w)) k w = v[7] :=
    sub_eq_of_eq_add (roundT1_eq_add v (oneRound v k w) k w rfl rfl rfl)
  rw [roundInverse, recoveredT1_oneRound, hh]
  calc _ = #v[v[0], v[1], v[2], v[3] + roundT1 v k w - roundT1 v k w, v[4], v[5], v[6], v[7]] := rfl
    _ = v := by rw [hd, vector8_eta]

theorem roundT1_roundInverse (v : Vector Word 8) (k w : Word) : roundT1 (roundInverse v k w) k w = recoveredT1 v :=
  (roundT1_eq_add (roundInverse v k w) v k w rfl rfl rfl).trans (sub_add_cancel ..)

theorem oneRound_roundInverse (v : Vector Word 8) (k w : Word) : oneRound (roundInverse v k w) k w = v := by
  have ha : recoveredT1 v + roundT2 (roundInverse v k w) = v[0] := sub_add_cancel v[0] (roundT2 (movedBack v))
  have he : v[4] - recoveredT1 v + recoveredT1 v = v[4] := sub_add_cancel ..
  rw [oneRound, roundT1_roundInverse, ha]
  calc _ = #v[v[0], v[1], v[2], v[3], v[4] - recoveredT1 v + recoveredT1 v, v[5], v[6], v[7]] := rfl
    _ = v := by rw [he, vector8_eta]

/-- Settles O49: the inverse is written out, T1 from the new a and then d and h. -/
theorem roundIsABijection : Obligations.RoundIsABijection := fun k w =>
  Function.bijective_iff_has_inverse.2
    ⟨fun v => roundInverse v k w, fun v => roundInverse_oneRound v k w, fun v => oneRound_roundInverse v k w⟩

/-! ## The two micro-operations (42_round_engine.md rules R159, R160) -/

/-- RND.INIT copies H into V and starts the rounds. -/
theorem rndInit_loads {s : State} (hp : s.phase = .rndInit) (hl : s.legal = true) :
    ∃ u, exec .rndInit s = .next u ∧ u.v = s.h ∧ u.t = 0 ∧ u.phase = .rndStep ∧ SameBut [.phase, .t, .v] s u :=
  ⟨_, State.microOp_runs _ hp hl, rfl, rfl, rfl, by simp [sameBut_iff]⟩

/-- Settles O30: V is H. -/
theorem rndInitLoadsTheWorkingVariables : Obligations.RndInitLoadsTheWorkingVariables := by
  intro s hp hl
  obtain ⟨u, hu, hv, hrest⟩ := rndInit_loads hp hl
  exact ⟨u, hu, fun i => by rw [hv], hrest⟩

/-- The constant of the round is `kList`'s, the list the constants are printed in. -/
theorem State.roundConstant_eq (s : State) : s.roundConstant = kList.getD s.t.toNat 0 :=
  (List.getD_eq_getElem kList 0 s.t.isLt).symm

theorem State.wAt_eq_getD (s : State) (i : Nat) : s.wAt i = s.w.toList.getD i 0 := by
  simp [State.wAt, List.getD_eq_getElem?_getD, Array.getD_eq_getD_getElem?]

theorem State.scheduleWord_eq (s : State) : s.scheduleWord = s.wAt s.t.toNat := by
  rw [State.wAt_eq_getD]
  exact (List.getD_eq_getElem s.w.toList 0 (by simpa using s.t.isLt)).symm

/-- The phase in which round `n` is applied; the accumulator's after the last round. -/
def roundPhase (n : Nat) : Phase :=
  if n < 64 then .rndStep else .accAdd

/-- RND.STEP is `oneRound` with K[T] and W[T]. -/
theorem rndStep_applies {s : State} (hp : s.phase = .rndStep) (hl : s.legal = true) :
    ∃ u, exec .rndStep s = .next u ∧ u.v = oneRound s.v (kList.getD s.t.toNat 0) (s.wAt s.t.toNat) ∧
      u.t = s.t + 1 ∧ u.phase = roundPhase (s.t.toNat + 1) ∧ SameBut [.phase, .t, .v] s u := by
  refine ⟨_, State.microOp_runs _ hp hl, ?_⟩
  rw [← s.roundConstant_eq, ← s.scheduleWord_eq]
  split_ifs with hmore
  · have hphase : roundPhase (s.t.toNat + 1) = .rndStep := if_pos (Nat.succ_lt_succ hmore)
    exact ⟨rfl, rfl, hp.trans hphase.symm, by simp [sameBut_iff]⟩
  · have hlast : s.t = 63#6 := by bv_omega
    exact ⟨rfl, by rw [hlast]; rfl, by rw [hlast]; rfl, by simp [sameBut_iff]⟩

/-- Settles O31: the words of `oneRound`, and T goes from 63 to 0. -/
theorem rndStepAppliesOneRound : Obligations.RndStepAppliesOneRound := by
  intro s hp hl a b c d e f g h t1 t2
  obtain ⟨u, hu, hv, ht, hphase, hframe⟩ := rndStep_applies hp hl
  refine ⟨u, hu, ?_⟩
  rw [hv]
  refine ⟨rfl, rfl, rfl, rfl, rfl, rfl, rfl, rfl, fun hmore => ?more, fun hlast => ?last, hframe⟩
  case more => exact ⟨by rw [ht, toNat_t_add_one hmore], hphase.trans (if_pos (Nat.succ_lt_succ hmore))⟩
  case last =>
    rw [hlast] at hphase
    exact ⟨by rw [ht]; bv_omega, hphase⟩

/-! ## The rounds' run (42_round_engine.md rule R162) -/

/-- The round engine has applied `n` rounds to H. -/
structure State.RoundsDone (s : State) (n : Nat) : Prop where
  phase : s.phase = roundPhase n
  t : s.t = BitVec.ofNat 6 n
  v : s.v = roundsTo s.h s.w.toList n

section
variable {s u : State} {n : Nat}

/-- RND.STEP applies the next round. -/
theorem State.RoundsDone.step (h : s.RoundsDone n) (hn : n < 64) (hl : s.legal = true) :
    ∃ u, exec s.phase.instr s = .next u ∧ u.RoundsDone (n + 1) ∧ SameBut [.phase, .t, .v] s u := by
  have hp : s.phase = .rndStep := h.phase.trans (if_pos hn)
  have htn : s.t.toNat = n := by rw [h.t, BitVec.toNat_ofNat, Nat.mod_eq_of_lt hn]
  obtain ⟨u, hu, hv, ht, hphase, hframe⟩ := rndStep_applies hp hl
  have hh : s.h = u.h := hframe .h (by simp)
  have hw : s.w = u.w := hframe .w (by simp)
  rw [htn] at hv hphase
  refine ⟨u, hp ▸ hu, ⟨hphase, ?t, ?v⟩, hframe⟩
  case t => rw [ht, h.t, BitVec.ofNat_add]; rfl
  case v => rw [hv, h.v, State.wAt_eq_getD, hh, hw, roundsTo]

/-- The sequencer has the turn after a micro-operation too, since none puts an event before it. -/
theorem PadTurn.of_exec (hs : PadTurn s) (hu : exec s.phase.instr s = .next u) (hpending : s.pending = u.pending) : PadTurn u :=
  ⟨exec_phaseInv hs.inv hu, hpending.symm.trans hs.quiet⟩

/-- `k` turns of the sequencer apply `k` rounds. -/
theorem State.RoundsDone.run (k : Nat) (hs : PadTurn s) (h : s.RoundsDone n) (hk : n + k ≤ 64) :
    ∃ u, runSteps k s = .next u ∧ u.RoundsDone (n + k) ∧ SameBut [.phase, .t, .v] s u := by
  induction k generalizing s n with
  | zero => exact ⟨s, rfl, h, SameBut.refl _ s⟩
  | succ k ih =>
    obtain ⟨v, hv, hnext, hframe⟩ := h.step (by omega) (State.legal_of_phaseInv hs.inv)
    obtain ⟨u, hrun, hend, hrest⟩ := ih (hs.of_exec hv (hframe .pending (by simp))) hnext (by omega)
    rw [Nat.add_right_comm, Nat.add_assoc] at hend
    exact ⟨u, (runSteps_succ k ((step_of_pending_nil hs.quiet).trans hv)).trans hrun, hend, hframe.trans hrest⟩

end

/-- Settles O56: RND.INIT is no round yet, and 64 turns more apply the 64 rounds. -/
theorem roundRunAppliesSixtyFourRounds : Obligations.RoundRunAppliesSixtyFourRounds := by
  intro s hp hl hquiet
  have hs : PadTurn s := ⟨phaseInv_of_onBlock (by simp [hp]) hl, hquiet⟩
  obtain ⟨v, hv, hload, ht, hphase, hframe⟩ := rndInit_loads hp hl
  have hinit : exec s.phase.instr s = .next v := hp ▸ hv
  have hstart : v.RoundsDone 0 := ⟨hphase, ht, hload.trans (hframe .h (by simp))⟩
  obtain ⟨u, hrun, hend, hrest⟩ := hstart.run 64 (hs.of_exec hinit (hframe .pending (by simp))) (Nat.le_refl 64)
  have hboth := hframe.trans hrest
  have hh : s.h = u.h := hboth .h (by simp)
  have hw : s.w = u.w := hboth .w (by simp)
  refine ⟨u, ?run, hend.phase, hend.t, ?rounds, hboth⟩
  case run => rw [runSteps_succ 64 ((step_of_pending_nil hquiet).trans hinit), hrun]
  case rounds => rw [hend.v, hh, hw, rounds64]

end Sys2Proof.Machine

namespace Sys2Proof.Machine

/-! ## The head of the block loop (43_accumulator.md rules R176, R177) -/

/-- Where ACC.IV and ACC.ADD lead: to block BLK while the buffer has one, else the compressor hands over. -/
def State.blockLoop (s : State) : State :=
  if 64 * s.blk.toNat < s.plen.toNat then { s with phase := .msxLoad } else s.endCompression

section
variable {s u : State}

theorem blockLoop_of_lt (h : 64 * s.blk.toNat < s.plen.toNat) : s.blockLoop = { s with phase := .msxLoad } :=
  if_pos h

theorem blockLoop_of_le (h : s.plen.toNat ≤ 64 * s.blk.toNat) : s.blockLoop = s.endCompression :=
  if_neg (Nat.not_lt.2 h)

theorem blockLoop_frame (s : State) : SameBut [.phase, .done] s s.blockLoop := by
  unfold State.blockLoop
  split_ifs <;> simp [sameBut_iff]

@[simp] theorem State.blockLoop_h (s : State) : s.blockLoop.h = s.h :=
  (blockLoop_frame s .h (by simp)).symm

@[simp] theorem State.blockLoop_blk (s : State) : s.blockLoop.blk = s.blk :=
  (blockLoop_frame s .blk (by simp)).symm

@[simp] theorem State.blockLoop_t (s : State) : s.blockLoop.t = s.t :=
  (blockLoop_frame s .t (by simp)).symm

/-- The next block or one of the two ends, by PLEN and MODE. -/
theorem blockLoop_cases (s : State) :
    (64 * s.blk.toNat < s.plen.toNat → s.blockLoop.phase = .msxLoad ∧ s.blockLoop.done = s.done) ∧
    (s.plen.toNat ≤ 64 * s.blk.toNat → s.mode = .hash → s.blockLoop.phase = .hexEnc ∧ s.blockLoop.done = s.done) ∧
    (s.plen.toNat ≤ 64 * s.blk.toNat → s.mode ≠ .hash → s.blockLoop.phase = .idle ∧ s.blockLoop.done = true) := by
  refine ⟨fun hmore => ?_, fun hend hm => ?_, fun hend hm => ?_⟩
  · rw [blockLoop_of_lt hmore]
    exact ⟨rfl, rfl⟩
  · simp [blockLoop_of_le hend, hm]
  · simp [blockLoop_of_le hend, hm]

/-! ## The three micro-operations -/

/-- CMP.CHK lets a whole number of blocks pass and writes PHASE alone. -/
theorem cmpChk_passes (hp : s.phase = .cmpChk) (hl : s.legal = true) (hmul : s.plen.toNat % 64 = 0) :
    exec .cmpChk s = .next { s with phase := .accIv } :=
  (State.microOp_runs _ hp hl).trans (congrArg _ (if_neg (not_not.2 hmul)))

theorem cmpChk_faults (hp : s.phase = .cmpChk) (hl : s.legal = true) (hpart : s.plen.toNat % 64 ≠ 0) :
    exec .cmpChk s = .next (s.raiseFault .invalidInputLength) :=
  (State.microOp_runs _ hp hl).trans (congrArg _ (if_pos hpart))

/-- The state at the head of the loop before any block: H at the initial constants (43_accumulator.md rule R176). -/
def State.loopStarted (s : State) : State :=
  { s with h := ivTable, blk := 0, t := 0 }

/-- ACC.IV goes to the head of the loop with BLK = 0. -/
theorem accIv_eq (hp : s.phase = .accIv) (hl : s.legal = true) : exec .accIv s = .next s.loopStarted.blockLoop :=
  State.microOp_runs _ hp hl

/-- The block in work lies inside the buffer, so BLK does not wrap. -/
theorem toNat_blk_add_one (hin : 64 * s.blk.toNat + 64 ≤ s.plen.toNat) : (s.blk + 1).toNat = s.blk.toNat + 1 := by
  bv_omega

/-- ACC.ADD adds V to H and goes to the head of the loop with the next BLK. -/
theorem accAdd_eq (hp : s.phase = .accAdd) (hl : s.legal = true) :
    exec .accAdd s = .next s.blockAdded.blockLoop ∧ s.blockAdded.blk.toNat = s.blk.toNat + 1 := by
  obtain ⟨-, -, -, hblock, -⟩ := s.legal_iff.1 hl
  obtain ⟨-, hin⟩ := block_of_blockLegal hblock (by simp [hp])
  have hblk : s.blockAdded.blk.toNat = s.blk.toNat + 1 := toNat_blk_add_one hin
  refine ⟨(State.microOp_runs _ hp hl).trans (congrArg _ ?_), hblk⟩
  simp only [State.blockLoop, hblk, State.anotherBlock, State.blockAdded_plen, decide_eq_true_eq]

theorem getElem_addWords (x y : Vector Word 8) (i : Fin 8) : (addWords x y)[i] = x[i] + y[i] := by
  fin_cases i <;> rfl

end

/-- Settles O32: by whether PLEN is a multiple of 64, which the run's invariant says of a buffer under HASH. -/
theorem cmpChkChecksTheLength : Obligations.CmpChkChecksTheLength := by
  intro s hp hl
  by_cases hmul : s.plen.toNat % 64 = 0
  · exact ⟨_, cmpChk_passes hp hl hmul, fun h => absurd hmul h, fun _ => ⟨rfl, by simp [sameBut_iff]⟩, fun _ _ => rfl⟩
  · refine ⟨_, cmpChk_faults hp hl hmul, fun _ => ⟨rfl, rfl, by simp [sameBut_iff]⟩, fun h => absurd h hmul, fun hs hm => ?_⟩
    exact absurd (hs.hashLength (Or.inl hp) hm).1 hmul

/-- Settles O33: with BLK = 0 the loop has a block exactly where PLEN is above 0. -/
theorem accIvSetsTheInitialConstants : Obligations.AccIvSetsTheInitialConstants := by
  intro s hp hl
  obtain ⟨hmore, hhash, hother⟩ := blockLoop_cases s.loopStarted
  have hstart : SameBut [.phase, .h, .blk, .t, .done] s s.loopStarted := by simp [sameBut_iff, State.loopStarted]
  exact ⟨_, accIv_eq hp hl, State.blockLoop_h _, State.blockLoop_blk _, State.blockLoop_t _, hmore,
    fun hzero => hhash hzero.le, fun hzero => hother hzero.le, hstart.trans ((blockLoop_frame _).mono (by simp))⟩

/-- Settles O34: a word of `addWords` is a sum modulo 2^32, and the loop's head says where ACC.ADD leads. -/
theorem accAddMixesTheBlockIn : Obligations.AccAddMixesTheBlockIn := by
  intro s hp hl
  obtain ⟨hu, hblk⟩ := accAdd_eq hp hl
  obtain ⟨hmore, hhash, hother⟩ := blockLoop_cases s.blockAdded
  rw [hblk] at hmore hhash hother
  have hadd : SameBut [.phase, .h, .blk, .t, .done] s s.blockAdded := by simp [sameBut_iff]
  refine ⟨_, hu, fun i => ?words, by rw [State.blockLoop_blk, hblk], State.blockLoop_t _, hmore, hhash, hother,
    hadd.trans ((blockLoop_frame _).mono (by simp))⟩
  case words => rw [State.blockLoop_h, State.blockAdded_h, getElem_addWords, BitVec.toNat_add]

/-! ## The invariant along the sequencer's turns -/

section
variable {s u : State}

theorem step_phaseInv (hs : s.PhaseInv) (h : step s = .next u) : u.PhaseInv := by
  obtain ⟨rest, ⟨i, hexec⟩ | rfl⟩ := step_cases h
  · exact exec_phaseInv (s := { s with pending := rest }) hs hexec
  · exact ⟨rfl, rfl⟩

theorem runSteps_phaseInv {k : Nat} (hs : s.PhaseInv) (h : runSteps k s = .next u) : u.PhaseInv := by
  induction k generalizing s with
  | zero => cases h; exact hs
  | succ k ih =>
    simp only [runSteps] at h
    split at h
    next v hv => exact ih (step_phaseInv hs hv) h
    · cases h
    · cases h

/-- With nothing pending the sequencer executes the micro-operation that PHASE names. -/
theorem step_of_phase {p : Phase} (hquiet : s.pending = []) (hp : s.phase = p) : step s = exec p.instr s :=
  hp ▸ step_of_pending_nil hquiet

/-- The sequencer has the turn after a run that puts no event before it. -/
theorem PadTurn.of_run {k : Nat} (hs : PadTurn s) (h : runSteps k s = .next u) (hpending : s.pending = u.pending) : PadTurn u :=
  ⟨runSteps_phaseInv hs.inv h, hpending.symm.trans hs.quiet⟩

/-! ## The compressor's run (43_accumulator.md rules R179, R180) -/

/-- Before the block loop the invariants of rule R42 ask for the command and T alone. -/
theorem legal_iff_compressing (hp : s.phase = .cmpChk ∨ s.phase = .accIv) :
    s.legal = true ↔ s.Compressing ∧ s.t = 0 := by
  rw [State.legal_iff, State.statusLegal, State.padLegal, State.tLegal, State.blockLegal, State.modeLegal]
  unfold State.Compressing State.Running
  obtain hp | hp := hp <;> simp [hp] <;> tauto

/-- The padded buffer rests on PBUF and PLEN. -/
theorem paddedBuffer_congr (hpbuf : s.pbuf = u.pbuf) (hplen : s.plen = u.plen) : s.paddedBuffer = u.paddedBuffer := by
  rw [State.paddedBuffer, State.paddedBuffer, hplen, State.readBytes_congr fun x _ _ => State.readByte_congr .pbuf x hpbuf]

/-- Block `n` is the padded buffer's bytes from `64n` on. -/
theorem take_drop_paddedBuffer {n : Nat} (hin : 64 * n + 64 ≤ s.plen.toNat) :
    (s.paddedBuffer.drop (64 * n)).take 64 = s.block n := by
  obtain ⟨rest, hrest⟩ := Nat.exists_eq_add_of_le hin
  rw [State.paddedBuffer, hrest, State.readBytes_add, State.readBytes_add, List.append_assoc,
    List.drop_left' (State.length_readBytes ..), List.take_left' (State.length_readBytes ..), Nat.zero_add, State.block]

/-- At the head of the loop `n` blocks are in H, and every register the sequencer goes by is as in a run. -/
structure State.BlocksDone (s : State) (n : Nat) : Prop where
  compressing : s.Compressing
  quiet : s.pending = []
  aligned : s.plen.toNat % 64 = 0
  t : s.t = 0
  blk : s.blk.toNat = n
  h : s.h = compressTo s.paddedBuffer n

/-- One block more, from a state with its bytes mixed into H and BLK moved on. -/
theorem State.BlocksDone.succ {n : Nat} (h : s.BlocksDone n) (hin : 64 * n + 64 ≤ s.plen.toNat) (ht : u.t = 0)
    (hblk : u.blk.toNat = n + 1) (hh : u.h = compressBlock s.h (s.block n))
    (hframe : SameBut [.phase, .blk, .t, .h, .v, .w] s u) : u.BlocksDone (n + 1) := by
  have hmode : s.mode = u.mode := hframe .mode (by simp)
  have hdone : s.done = u.done := hframe .done (by simp)
  have herr : s.err = u.err := hframe .err (by simp)
  have hplen : s.plen = u.plen := hframe .plen (by simp)
  have hbuffer : s.paddedBuffer = u.paddedBuffer := paddedBuffer_congr (hframe .pbuf (by simp)) hplen
  obtain ⟨⟨⟨hdone', herr'⟩, hmode'⟩, hquiet, hmul, -, -, hprev⟩ := h
  refine ⟨⟨⟨hdone ▸ hdone', herr ▸ herr'⟩, hmode ▸ hmode'⟩, (hframe .pending (by simp)).symm.trans hquiet, hplen ▸ hmul, ht,
    hblk, ?_⟩
  rw [hh, hprev, ← take_drop_paddedBuffer hin, ← hbuffer, compressTo]

/-- From a block's first phase the expander and the round engine lead to ACC.ADD in 129 turns, with the block's rounds in V. -/
theorem rounds_run (hs : PadTurn s) (hp : s.phase = .msxLoad) (ht : s.t = 0) :
    ∃ u, runSteps 129 s = .next u ∧ PadTurn u ∧ u.phase = .accAdd ∧ u.v = rounds64 s.h (schedule (s.block s.blk.toNat)) ∧
      SameBut [.phase, .t, .v, .w] s u := by
  obtain ⟨a, hrunA, hpA, -, hw, hframeA⟩ := scheduleRunExpandsTheBlock s hp (State.legal_of_phaseInv hs.inv) ht hs.quiet
  have ha := hs.of_run hrunA (hframeA .pending (by simp))
  obtain ⟨u, hrun, hpU, -, hv, hframe⟩ := roundRunAppliesSixtyFourRounds a hpA (State.legal_of_phaseInv ha.inv) ha.quiet
  have hh : s.h = a.h := hframeA .h (by simp)
  exact ⟨u, (runSteps_add 64 65 hrunA).trans hrun, ha.of_run hrun (hframe .pending (by simp)), hpU, by rw [hv, hw, hh],
    (hframeA.mono (by simp)).trans (hframe.mono (by simp))⟩

/-- From the loop's head the next block is mixed into H in 130 turns, ACC.ADD the last. -/
theorem State.BlocksDone.block_run {n : Nat} (hs : s.BlocksDone n) (hn : 64 * n < s.plen.toNat) :
    ∃ u, runSteps 130 s.blockLoop = .next u.blockLoop ∧ u.BlocksDone (n + 1) ∧
      SameBut [.phase, .blk, .t, .h, .v, .w] s u := by
  have ⟨hcmp, hquiet, hmul, ht, hblk, _⟩ := hs
  have hin : 64 * n + 64 ≤ s.plen.toNat := by omega
  rw [blockLoop_of_lt (hblk ▸ hn)]
  have hfirst : SameBut [.phase] s { s with phase := .msxLoad } := by simp [sameBut_iff]
  have hturn : PadTurn { s with phase := .msxLoad } := ⟨⟨⟨hcmp, hmul, hblk ▸ hin⟩, by simp [ht]⟩, hquiet⟩
  obtain ⟨b, hrun, hb, hp, hv, hrest⟩ := rounds_run hturn rfl ht
  obtain ⟨hadd, hnext⟩ := accAdd_eq hp (State.legal_of_phaseInv hb.inv)
  have hframe : SameBut [.phase, .t, .v, .w] s b := (hfirst.mono (by simp)).trans hrest
  have hh : s.h = b.h := hframe .h (by simp)
  have hblk' : s.blk = b.blk := hframe .blk (by simp)
  have hboth : SameBut [.phase, .blk, .t, .h, .v, .w] s b.blockAdded :=
    (hframe.mono (by simp)).trans (by simp [sameBut_iff])
  refine ⟨b.blockAdded, ?run, hs.succ hin rfl (by rw [hnext, ← hblk', hblk]) ?words hboth, hboth⟩
  case run => rw [runSteps_add 129 1 hrun, hb.runSteps_one hp hadd]
  case words =>
    rw [State.blockAdded_h, hv, ← hh, compressBlock, ← hblk]
    rfl

/-- `k` blocks more in 130 turns each. -/
theorem State.BlocksDone.run {n : Nat} (k : Nat) (h : s.BlocksDone n) (hk : 64 * (n + k) ≤ s.plen.toNat) :
    ∃ u, runSteps (130 * k) s.blockLoop = .next u.blockLoop ∧ u.BlocksDone (n + k) ∧
      SameBut [.phase, .blk, .t, .h, .v, .w] s u := by
  induction k generalizing s n with
  | zero => exact ⟨s, rfl, h, SameBut.refl _ s⟩
  | succ k ih =>
    obtain ⟨v, hfirst, hv, hframe⟩ := h.block_run (by omega)
    have hplen : s.plen = v.plen := hframe .plen (by simp)
    obtain ⟨u, hrun, hu, hrest⟩ := ih hv (by rw [← hplen]; omega)
    rw [Nat.add_right_comm, Nat.add_assoc] at hu
    refine ⟨u, ?_, hu, hframe.trans hrest⟩
    rw [Nat.mul_succ, Nat.add_comm, runSteps_add 130 _ hfirst, hrun]

/-- CMP.CHK and ACC.IV lead to the head of the loop with no block in H yet. -/
theorem run_to_blockLoop (hp : s.phase = .cmpChk) (hl : s.legal = true) (hquiet : s.pending = [])
    (hmul : s.plen.toNat % 64 = 0) :
    ∃ u, runSteps 2 s = .next u.blockLoop ∧ u.BlocksDone 0 ∧ SameBut [.phase, .blk, .t, .h] s u := by
  have hcmp := (legal_iff_compressing (Or.inl hp)).1 hl
  have hcheck : step s = .next { s with phase := .accIv } :=
    (step_of_phase hquiet hp).trans (cmpChk_passes hp hl hmul)
  have hinit := (step_of_phase (s := { s with phase := .accIv }) hquiet rfl).trans
    (accIv_eq rfl ((legal_iff_compressing (Or.inr rfl)).2 hcmp))
  refine ⟨State.loopStarted { s with phase := .accIv }, ?run, ⟨hcmp.1, hquiet, hmul, rfl, rfl, rfl⟩,
    by simp [sameBut_iff, State.loopStarted]⟩
  case run => exact (runSteps_succ 1 hcheck).trans (runSteps_succ 0 hinit)

end

theorem length_paddedBuffer (s : State) : s.paddedBuffer.length = s.plen.toNat :=
  State.length_readBytes ..

/-- Settles O57: the check and the initial constants lead to the block loop, and each of the N blocks takes 130 turns. -/
theorem compressorRunCompressesTheBuffer : Obligations.CompressorRunCompressesTheBuffer := by
  intro s hp hl hquiet hmul
  obtain ⟨a, hstart, ha, hframeA⟩ := run_to_blockLoop hp hl hquiet hmul
  have hplenA : s.plen = a.plen := hframeA .plen (by simp)
  obtain ⟨b, hrun, hb, hframeB⟩ := ha.run (s.plen.toNat / 64) (by rw [← hplenA]; omega)
  rw [Nat.zero_add] at hb
  have hframe : SameBut [.phase, .blk, .t, .h, .v, .w] s b := (hframeA.mono (by simp)).trans hframeB
  have hmode : s.mode = b.mode := hframe .mode (by simp)
  have hdone : s.done = b.done := hframe .done (by simp)
  have hplen : s.plen = b.plen := hframe .plen (by simp)
  have hbuffer : s.paddedBuffer = b.paddedBuffer := paddedBuffer_congr (hframe .pbuf (by simp)) hplen
  have hlast : b.plen.toNat ≤ 64 * b.blk.toNat := by rw [hb.blk, ← hplen]; omega
  obtain ⟨-, hhash, hother⟩ := blockLoop_cases b
  rw [hmode, hdone]
  refine ⟨b.blockLoop, ?run, ?compressed, by rw [State.blockLoop_blk, hb.blk], by rw [State.blockLoop_t, hb.t], hhash hlast,
    hother hlast, (hframe.mono (by simp)).trans ((blockLoop_frame b).mono (by simp))⟩
  case run => rw [runSteps_add 2 _ hstart, hrun]
  case compressed => rw [compressBuffer, length_paddedBuffer, if_pos hmul, State.blockLoop_h, hb.h, hbuffer]

end Sys2Proof.Machine

namespace Sys2Proof.Machine

/-! ## The digits of a word (44_hex_encoder.md rule R190, 30_encoding.md rules R97, R98) -/

/-- No two nibbles share a code. -/
theorem hexChar_injective : Function.Injective hexChar := by
  unfold Function.Injective
  decide

theorem getElem_hex8 (x : Word) {j : Nat} (hj : j < (hex8 x).length) : (hex8 x)[j] = hexChar (nibble x j) := by
  simp [hex8]

/-- Nibble `j` as a number: the digit of weight `16 ^ (7 - j)`. -/
theorem nibble_eq_ofNat (x : Word) {j : Nat} (hj : j < 8) : nibble x j = BitVec.ofNat 4 (x.toNat / 16 ^ (7 - j)) := by
  have hweight : 2 ^ (28 - 4 * j) = 16 ^ (7 - j) := by
    rw [show 28 - 4 * j = 4 * (7 - j) by omega, Nat.pow_mul]
  rw [nibble, BitVec.extractLsb', Nat.shiftRight_eq_div_pow, hweight]

/-- Bit `i` of a word is a bit of its nibble `7 - i / 4`. -/
theorem getLsbD_nibble (x : Word) {i : Nat} (hi : i < 32) : (nibble x (7 - i / 4)).getLsbD (i % 4) = x.getLsbD i := by
  have hindex : 28 - 4 * (7 - i / 4) + i % 4 = i := by omega
  rw [nibble, BitVec.getLsbD_extractLsb', hindex, decide_eq_true (Nat.mod_lt i (by decide)), Bool.true_and]

/-- The characters give the nibbles back, and the nibbles the bits. -/
theorem hex8_injective : Function.Injective hex8 := by
  intro x y h
  have hnibble (j : Nat) (hj : j < 8) : nibble x j = nibble y j := by
    apply hexChar_injective
    rw [← getElem_hex8 x (by rwa [length_hex8]), ← getElem_hex8 y (by rwa [length_hex8])]
    exact List.getElem_of_eq h _
  refine BitVec.eq_of_getLsbD_eq fun i hi => ?_
  rw [← getLsbD_nibble x hi, hnibble _ (by omega), getLsbD_nibble y hi]

/-! ## The digits of the words in order (44_hex_encoder.md rule R192) -/

theorem length_flatMap_hex8 (xs : List Word) : (xs.flatMap hex8).length = 8 * xs.length := by
  simp [List.length_flatMap, Nat.mul_comm]

/-- Every word takes eight characters, so the characters tell where a word ends. -/
theorem flatMap_hex8_injective : Function.Injective (List.flatMap hex8) := by
  intro xs ys h
  have hcount := congrArg List.length h
  rw [length_flatMap_hex8, length_flatMap_hex8] at hcount
  have hwidths (zs : List Word) : (zs.map hex8).map List.length = List.replicate zs.length 8 := by
    simp [Function.comp_def]
  refine List.map_injective_iff.2 hex8_injective (List.eq_iff_flatten_eq.2 ⟨h, ?_⟩)
  rw [hwidths, hwidths, Nat.eq_of_mul_eq_mul_left (by decide) hcount]

theorem length_encodeHex (h : Vector Word 8) : (encodeHex h).length = 64 := by
  rw [encodeHex, length_flatMap_hex8, Vector.length_toList]

theorem encodeHex_injective : Function.Injective encodeHex :=
  fun _ _ h => Vector.toList_inj.1 (flatMap_hex8_injective h)

theorem isHexCode_encodeHex (h : Vector Word 8) : ∀ b ∈ encodeHex h, isHexCode b = true := by
  intro b hb
  obtain ⟨x, -, hb⟩ := List.mem_flatMap.1 hb
  exact isHexCode_hex8 x b hb

/-- Settles O53: the characters tell the nibbles apart, and every word takes eight of them. -/
theorem encodeHexIsInjective : Obligations.EncodeHexIsInjective :=
  ⟨fun h => ⟨length_encodeHex h, isHexCode_encodeHex h⟩, fun _ _ h => encodeHex_injective h⟩

/-! ## The micro-operation (44_hex_encoder.md rule R191) -/

theorem State.hAt_eq_getD (s : State) (i : Nat) : s.hAt i = s.h.toList.getD i 0 := by
  simp [State.hAt, List.getD_eq_getElem?_getD, Array.getD_eq_getD_getElem?]

/-- A byte string written reads back as a whole. -/
theorem State.readBytes_writeBytes_self (s : State) (sp : Space) (a : Nat) (bs : List Byte) :
    (s.writeBytes sp a bs).readBytes sp a bs.length = bs := by
  simpa using s.readBytes_writeBytes sp a 0 bs.length bs (by omega)

section
variable {s u : State}

/-- Where HEX is as after `wordEncoded`, it holds the characters of H[T] from `8 T` on and every other byte as before. -/
theorem reads_of_wordEncoded (hhex : u.hex = s.wordEncoded.hex) :
    u.readBytes .hex (8 * s.t.toNat) 8 = hex8 (s.hAt s.t.toNat) ∧ SameOutside .hex (8 * s.t.toNat) 8 s u := by
  have hreads (x : Nat) : u.readByte .hex x = s.wordEncoded.readByte .hex x := State.readByte_congr .hex x hhex
  have hlength := length_hex8 (s.hAt s.t.toNat)
  refine ⟨(State.readBytes_congr fun x _ _ => hreads x).trans ?written, fun x hx => ?others⟩
  case written =>
    have hread := s.readBytes_writeBytes_self .hex (8 * s.t.toNat) (hex8 (s.hAt s.t.toNat))
    rwa [hlength] at hread
  case others => rw [hreads, State.wordEncoded, State.readByte_writeBytes, if_neg (by omega)]

/-- HEX.ENC writes the characters of H[T] and moves T on or finishes. -/
theorem hexEnc_encodes (hp : s.phase = .hexEnc) (hl : s.legal = true) :
    ∃ u, exec .hexEnc s = .next u ∧ u.readBytes .hex (8 * s.t.toNat) 8 = hex8 (s.hAt s.t.toNat) ∧
      SameOutside .hex (8 * s.t.toNat) 8 s u ∧
      (s.t.toNat < 7 → u.t.toNat = s.t.toNat + 1 ∧ u.phase = .hexEnc ∧ u.done = s.done) ∧
      (s.t.toNat = 7 → u.t.toNat = 0 ∧ u.phase = .idle ∧ u.done = true) ∧ SameBut [.phase, .t, .hex, .done] s u := by
  refine ⟨_, State.microOp_runs _ hp hl, ?_⟩
  split_ifs with hmore
  · obtain ⟨hword, hothers⟩ := reads_of_wordEncoded (s := s) (u := { s.wordEncoded with t := s.t + 1 }) rfl
    exact ⟨hword, hothers, fun _ => ⟨toNat_t_add_one (by omega), s.wordEncoded_phase.trans hp, s.wordEncoded_done⟩,
      fun hlast => by omega, by simp [sameBut_iff]⟩
  · obtain ⟨hword, hothers⟩ := reads_of_wordEncoded (s := s) (u := State.finish { s.wordEncoded with t := 0 }) rfl
    exact ⟨hword, hothers, fun h => absurd h hmore, fun _ => ⟨rfl, rfl, rfl⟩, by simp [sameBut_iff]⟩

end

/-- Settles O35: the eight characters one by one, each the code of a nibble. -/
theorem hexEncEncodesOneWord : Obligations.HexEncEncodesOneWord := by
  intro s hp hl n
  obtain ⟨u, hu, hword, hrest⟩ := hexEnc_encodes hp hl
  refine ⟨u, hu, fun j hj => ?_, hrest⟩
  have hword' : u.readBytes .hex (8 * n) (hex8 (s.hAt n)).length = hex8 (s.hAt n) := by rwa [length_hex8]
  rw [State.readByte_of_readBytes hword' (by rwa [length_hex8]), getElem_hex8, nibble_eq_ofNat _ hj, State.hAt_eq_getD]

/-! ## The encoder's run (44_hex_encoder.md rule R193) -/

/-- The characters of the first `n` words. -/
def digestPrefix (h : Vector Word 8) (n : Nat) : List Byte :=
  (h.toList.take n).flatMap hex8

theorem digestPrefix_succ (h : Vector Word 8) {n : Nat} (hn : n < 8) :
    digestPrefix h (n + 1) = digestPrefix h n ++ hex8 (h.toList.getD n 0) := by
  have hin : n < h.toList.length := by rwa [Vector.length_toList]
  rw [digestPrefix, digestPrefix, ← List.take_append_getElem hin, List.flatMap_append, List.flatMap_singleton,
    List.getD_eq_getElem _ _ hin]

theorem digestPrefix_eight (h : Vector Word 8) : digestPrefix h 8 = encodeHex h := by
  rw [digestPrefix, List.take_of_length_le h.length_toList.le, encodeHex]

/-- In HEX_ENC the invariants of rule R42 are all that the run's invariant asks. -/
theorem phaseInv_of_hexEnc {s : State} (hp : s.phase = .hexEnc) (hl : s.legal = true) : s.PhaseInv := by
  obtain ⟨hstatus, -, ht, -, hmode⟩ := s.legal_iff.1 hl
  obtain ⟨hfault, hdone⟩ := statusLegal_iff.1 hstatus
  obtain ⟨-, -, hlast, -⟩ := t_of_tLegal ht
  obtain ⟨-, -, hencoder⟩ := mode_of_modeLegal hmode
  simp only [hp, reduceCtorEq, false_iff, not_not, false_and, imp_false, Bool.not_eq_true] at hfault hdone
  simp only [State.PhaseInv, hp]
  exact ⟨⟨hdone, hfault⟩, hlast hp, hencoder hp⟩

/-- The encoder is to write word `n`, and HEX holds the characters of the words before it. -/
structure State.EncodedTo (s : State) (n : Nat) : Prop where
  turn : PadTurn s
  phase : s.phase = .hexEnc
  t : s.t.toNat = n
  chars : s.readBytes .hex 0 (8 * n) = digestPrefix s.h n

section
variable {s u : State} {n : Nat}

/-- The turn at word `n`: HEX holds its characters too, and the encoder goes on to the next word or has finished. -/
theorem State.EncodedTo.step (h : s.EncodedTo n) (hn : n < 8) :
    ∃ u, exec s.phase.instr s = .next u ∧ u.readBytes .hex 0 (8 * (n + 1)) = digestPrefix s.h (n + 1) ∧
      (n < 7 → u.t.toNat = n + 1 ∧ u.phase = .hexEnc ∧ u.done = s.done) ∧
      (n = 7 → u.t.toNat = 0 ∧ u.phase = .idle ∧ u.done = true) ∧ SameBut [.phase, .t, .done, .hex] s u := by
  obtain ⟨u, hu, hword, hothers, hmore, hlast, hframe⟩ := hexEnc_encodes h.phase (State.legal_of_phaseInv h.turn.inv)
  rw [h.t] at hword hothers hmore hlast
  have hbefore : u.readBytes .hex 0 (8 * n) = digestPrefix s.h n :=
    (State.readBytes_congr fun x _ hx => hothers x (Or.inl (by omega))).trans h.chars
  refine ⟨u, h.phase ▸ hu, ?chars, hmore, hlast, hframe.mono (by simp)⟩
  case chars => rw [Nat.mul_succ, State.readBytes_add, hbefore, Nat.zero_add, hword, State.hAt_eq_getD, digestPrefix_succ s.h hn]

/-- `k` turns of the sequencer encode `k` words, up to the last but one. -/
theorem State.EncodedTo.run (k : Nat) (h : s.EncodedTo n) (hk : n + k ≤ 7) :
    ∃ u, runSteps k s = .next u ∧ u.EncodedTo (n + k) ∧ SameBut [.phase, .t, .done, .hex] s u := by
  induction k generalizing s n with
  | zero => exact ⟨s, rfl, h, SameBut.refl _ s⟩
  | succ k ih =>
    obtain ⟨v, hv, hchars, hmore, -, hframe⟩ := h.step (by omega)
    obtain ⟨ht, hphase, -⟩ := hmore (by omega)
    have hh : s.h = v.h := hframe .h (by simp)
    obtain ⟨u, hrun, hend, hrest⟩ := ih ⟨h.turn.of_exec hv (hframe .pending (by simp)), hphase, ht, hh ▸ hchars⟩ (by omega)
    rw [Nat.add_right_comm, Nat.add_assoc] at hend
    exact ⟨u, (runSteps_succ k ((step_of_pending_nil h.turn.quiet).trans hv)).trans hrun, hend, hframe.trans hrest⟩

end

/-- Settles O58: no word is encoded at first, seven turns encode seven words, and the eighth encodes the last and finishes. -/
theorem encoderRunWritesTheHexDigest : Obligations.EncoderRunWritesTheHexDigest := by
  intro s hp hl ht hquiet
  have hstart : s.EncodedTo 0 := ⟨⟨phaseInv_of_hexEnc hp hl, hquiet⟩, hp, by rw [ht]; rfl, rfl⟩
  obtain ⟨v, hrun, hv, hframe⟩ := hstart.run 7 (Nat.le_refl 7)
  obtain ⟨u, hu, hchars, -, hlast, hrest⟩ := hv.step (by decide)
  obtain ⟨htU, hphase, hdone⟩ := hlast rfl
  have hh : s.h = v.h := hframe .h (by simp)
  refine ⟨u, ?run, ?digest, BitVec.eq_of_toNat_eq htU, hphase, hdone, hframe.trans hrest⟩
  case run => rw [runSteps_add 7 1 hrun, hv.turn.runSteps_one rfl hu]
  case digest => exact hchars.trans (hh ▸ digestPrefix_eight v.h)

end Sys2Proof.Machine

namespace Sys2Proof.Machine

/-! ## Turns (45_host_commands.md rules R208, R224) -/

theorem step_resetInput {s : State} {rest : List Event} (h : s.pending = .resetInput :: rest) :
    step s = .next (State.resetEvent { s with pending := rest }) := by
  simp only [step, State.nextTurn_resetInput h]

/-- Settles O6: one clause for each form of the pending list. -/
theorem stepRunsTheDecodedInstruction : Obligations.StepRunsTheDecodedInstruction :=
  fun _ _ => ⟨fun h => step_of_nextTurn (State.nextTurn_nil h), fun h => step_of_nextTurn (State.nextTurn_sequencer h),
    fun _ h => step_of_nextTurn (State.nextTurn_access h), fun _ h => step_of_nextTurn (State.nextTurn_command h),
    step_resetInput⟩

/-- Settles O9: each of the five rows answers its own state. -/
theorem rowsThatChangeNothing : Obligations.RowsThatChangeNothing := by
  intro s i hi
  simp only [List.mem_cons, List.not_mem_nil, or_false] at hi
  obtain rfl | rfl | rfl | rfl | rfl := hi <;> rfl

/-! ## Commands (45_host_commands.md rules R200 to R206) -/

section
variable {s : State}

theorem startCommand_idle (hp : s.phase = .idle) (m : Mode) (p : Phase) : startCommand m p s = .next (s.accept m p) := by
  rw [startCommand_eq, if_pos hp]

theorem startCommand_of_ne_idle (hp : s.phase ≠ .idle) (m : Mode) (p : Phase) : startCommand m p s = .next s := by
  rw [startCommand_eq, if_neg hp]

theorem accept_frame {m : Mode} {p : Phase} : SameBut [.phase, .mode, .ptr, .blk, .t, .done] s (s.accept m p) := by
  simp [sameBut_iff]

theorem resetEvent_frame : SameBut [.phase, .mode, .ptr, .blk, .t, .done, .err, .msgLen, .plen] s s.resetEvent := by
  simp [sameBut_iff]

end

/-- Settles O8: each of the four rows is `startCommand` with its own MODE and first phase. -/
theorem workingCommandsStartInIdleOnly : Obligations.WorkingCommandsStartInIdleOnly := by
  intro s row hrow
  have hexec : exec row.1 s = startCommand row.2.1 row.2.2 s := by
    simp only [List.mem_cons, List.not_mem_nil, or_false] at hrow
    obtain rfl | rfl | rfl | rfl := hrow <;> rfl
  rw [hexec]
  exact ⟨fun hp => ⟨_, startCommand_idle hp .., rfl, rfl, rfl, rfl, rfl, rfl, accept_frame⟩,
    fun hp => startCommand_of_ne_idle hp ..⟩

/-- The command of a WR.CMD is the one whose code its data has in the low three bits (30_encoding.md rule R94). -/
theorem toNat_code_commandOf (data : BitVec 64) : (Command.code (commandOf data)).toNat = data.toNat % 8 := by
  simp [commandOf, Command.code_ofCode]

/-- Settles O7: the code decides between the reset event, `startCommand` and a command that changes nothing. -/
theorem commandDecodeAndAcceptance : Obligations.CommandDecodeAndAcceptance := by
  intro addr data s c
  have hcode : c = (Command.code (commandOf data)).toNat := (toNat_code_commandOf data).symm
  have hexec : exec (.wrCmd addr data) s = runCommand (commandOf data) s := rfl
  rw [hcode, hexec]
  cases commandOf data with
  | rst =>
    exact ⟨fun _ => ⟨_, rfl, rfl, rfl, rfl, rfl, rfl, rfl, rfl, rfl, rfl, resetEvent_frame⟩,
      fun ⟨_, hle, _⟩ => absurd hle (by decide), fun ⟨hne, _⟩ => absurd rfl hne⟩
  | hash | pad | compress | encode =>
    exact ⟨fun h => absurd h (by decide),
      fun ⟨_, _, hp⟩ => ⟨_, startCommand_idle hp .., rfl, rfl, rfl, rfl, rfl, rfl, accept_frame⟩,
      fun ⟨_, hout⟩ => startCommand_of_ne_idle (fun hp => hout ⟨by decide, by decide, hp⟩) ..⟩
  | nop =>
    exact ⟨fun h => absurd h (by decide), fun ⟨hge, _⟩ => absurd hge (by decide), fun _ => rfl⟩
  | reserved5 | reserved6 =>
    exact ⟨fun h => absurd h (by decide), fun ⟨_, hle, _⟩ => absurd hle (by decide), fun _ => rfl⟩

/-! ## Writes of the lengths and of the memories (45_host_commands.md rules R210 to R213) -/

/-- Settles O11: by the condition of WR.MSG_LEN. -/
theorem wrMsgLenInIdle : Obligations.WrMsgLenInIdle := by
  intro addr data s
  have hexec : exec (.wrMsgLen addr data) s = if s.phase = .idle then .next { s with msgLen := data } else .next s := rfl
  rw [hexec]
  exact ⟨fun hp => ⟨_, if_pos hp, rfl, by simp [sameBut_iff]⟩, fun hp => if_neg hp⟩

/-- PLEN takes the low 30 bits of the data (30_encoding.md rule R94). -/
theorem toNat_plenOf (data : BitVec 64) : (plenOf data).toNat = data.toNat % 2 ^ 30 := by
  simp [plenOf]

/-- Settles O12: by the condition of WR.PLEN. -/
theorem wrPlenInIdle : Obligations.WrPlenInIdle := by
  intro addr data s
  have hexec : exec (.wrPlen addr data) s = if s.phase = .idle then .next { s with plen := plenOf data } else .next s := rfl
  rw [hexec]
  exact ⟨fun hp => ⟨_, if_pos hp, toNat_plenOf data, by simp [sameBut_iff]⟩, fun hp => if_neg hp⟩

/-- A memory takes the low byte of the data (30_encoding.md rule R94). -/
theorem toNat_byteOf (data : BitVec 64) : (byteOf data).toNat = data.toNat % 256 := by
  simp [byteOf]

/-- The field of a space's memory. -/
def memoryField : Space → Field
  | .msg => .msg
  | .pbuf => .pbuf
  | .hex => .hex

theorem writeByte_frame {s : State} {sp : Space} {a : Nat} {b : Byte} : SameBut [memoryField sp] s (s.writeByte sp a b) := by
  cases sp <;> simp [sameBut_iff, memoryField]

section
variable {sp : Space} {addr : BitVec 30} {s : State}

/-- Through an open window one byte is written and nothing else. -/
theorem writeWindow_open (hopen : s.phase = .idle ∧ addr.toNat < Config.spaceSize sp) (data : BitVec 64) :
    ∃ u, writeWindow sp addr data s = .next u ∧ (u.readByte sp addr.toNat).toNat = data.toNat % 256 ∧
      SameOutside sp addr.toNat 1 s u ∧ SameBut [memoryField sp] s u := by
  refine ⟨s.writeByte sp addr.toNat (byteOf data), ?run, ?written, fun x hx => ?others, writeByte_frame⟩
  case run => rw [writeWindow_eq, if_pos hopen]
  case written => rw [State.readByte_writeByte, if_pos ⟨rfl, rfl⟩, toNat_byteOf]
  case others => rw [State.readByte_writeByte, if_neg (by omega)]

theorem writeWindow_closed (hclosed : ¬ (s.phase = .idle ∧ addr.toNat < Config.spaceSize sp)) (data : BitVec 64) :
    writeWindow sp addr data s = .next s := by
  rw [writeWindow_eq, if_neg hclosed]

end

/-- Settles O13: WR.MSG goes through MSG's window. -/
theorem wrMsgWritesOneByte : Obligations.WrMsgWritesOneByte :=
  fun _ data _ => ⟨fun hopen => writeWindow_open (sp := .msg) hopen data,
    fun hclosed => writeWindow_closed (sp := .msg) hclosed data⟩

/-- Settles O14: WR.PBUF goes through PBUF's window, which has every 30-bit address. -/
theorem wrPbufWritesOneByte : Obligations.WrPbufWritesOneByte :=
  fun addr data _ => ⟨fun hp => writeWindow_open (sp := .pbuf) ⟨hp, addr.isLt⟩ data,
    fun hp => writeWindow_closed (sp := .pbuf) (fun hopen => hp hopen.1) data⟩

/-! ## Reads of the registers (45_host_commands.md rules R214 to R216, R221) -/

theorem reply_frame {s : State} {sel : BitVec 3} {addr : BitVec 30} {value : BitVec 64} :
    SameBut [.replies] s (s.reply sel addr value) := by
  simp [sameBut_iff]

theorem toNat_zext64 {n : Nat} (hn : n ≤ 64) (v : BitVec n) : (zext64 v).toNat = v.toNat :=
  BitVec.toNat_setWidth_of_le hn

/-- BUSY in bit 0, DONE in bit 1, ERR in bits 3:2 (10_state.md rule R31). -/
theorem toNat_status (s : State) :
    s.status.toNat = s.busy.toNat + 2 * s.done.toNat + 4 * (ErrCode.code s.err).toNat := by
  rw [State.status]
  cases s.busy <;> cases s.done <;> cases s.err <;> rfl

/-- Settles O16: both headers reply with their register. -/
theorem rdLengthsReturnTheRegisters : Obligations.RdLengthsReturnTheRegisters :=
  fun _ _ _ => ⟨⟨_, rfl, reply_frame, rfl⟩, ⟨_, _, rfl, reply_frame, rfl, toNat_zext64 (by decide) _⟩⟩

/-- Settles O20: RD.CMD replies with 0, and the three writes have no effect. -/
theorem remainingHeadersAreIgnored : Obligations.RemainingHeadersAreIgnored :=
  fun _ _ _ => ⟨⟨_, rfl, reply_frame, rfl⟩, rfl, rfl, rfl⟩

/-! ## Reads of the memories and of H (45_host_commands.md rules R217 to R220) -/

section
variable {sel : BitVec 3} {addr : BitVec 30} {size n : Nat} {value : BitVec 64} {s : State}

theorem readWindow_open (hopen : s.phase = .idle ∧ addr.toNat < size) (hvalue : value.toNat = n) :
    ∃ (u : State) (v : BitVec 64), readWindow sel addr size value s = .next u ∧ SameBut [.replies] s u ∧
      u.replies = s.replies ++ [⟨0#1, sel, addr, v⟩] ∧ v.toNat = n := by
  rw [readWindow_eq, if_pos hopen]
  exact ⟨_, value, rfl, reply_frame, rfl, hvalue⟩

/-- Through a closed window the reply is the next free value (93_implementation_defined.md U2). -/
theorem readWindow_closed (hclosed : ¬ (s.phase = .idle ∧ addr.toNat < size)) :
    ∃ u, readWindow sel addr size value s = .next u ∧ SameBut [.replies, .draws] s u ∧ u.draws = s.draws + 1 ∧
      u.replies = s.replies ++ [⟨0#1, sel, addr, Config.unspecifiedRead s.draws⟩] := by
  rw [readWindow_eq, if_neg hclosed]
  exact ⟨_, rfl, by simp [sameBut_iff], rfl, rfl⟩

end

/-- Settles O17: RD.MSG goes through MSG's window. -/
theorem rdMsgReadsInIdle : Obligations.RdMsgReadsInIdle :=
  fun _ _ _ => ⟨fun hopen => readWindow_open hopen (toNat_zext64 (by decide) _), readWindow_closed⟩

/-- Settles O18: RD.PBUF goes through PBUF's window, which has every 30-bit address. -/
theorem rdPbufReadsInIdle : Obligations.RdPbufReadsInIdle :=
  fun addr _ _ => ⟨fun hp => readWindow_open ⟨hp, addr.isLt⟩ (toNat_zext64 (by decide) _),
    fun hp => readWindow_closed fun hopen => hp hopen.1⟩

/-- Settles O19: RD.H goes through a window of 8 words, RD.HEX through HEX's. -/
theorem rdHAndRdHexReadInIdle : Obligations.RdHAndRdHexReadInIdle := by
  intro addr data s
  have hword : (zext64 (s.hAt addr.toNat)).toNat = (s.h.toList.getD addr.toNat 0).toNat := by
    rw [toNat_zext64 (by decide), State.hAt_eq_getD]
  exact ⟨fun hopen => readWindow_open hopen hword, readWindow_closed,
    fun hopen => readWindow_open hopen (toNat_zext64 (by decide) _), readWindow_closed⟩

/-! ## STATUS (10_state.md rules R31, R34, R42) -/

/-- BUSY as a number: 0 in IDLE and in FAULT, 1 in every other PHASE (10_state.md rule R34). -/
theorem toNat_busy (s : State) : s.busy.toNat = if s.phase = .idle ∨ s.phase = .fault then 0 else 1 := by
  rw [State.busy]
  cases s.phase <;> rfl

/-- Inside the invariants no two of the four flags of STATUS are set at once (10_state.md rule R42 (a), (b)). -/
theorem toNat_status_of_legal {s : State} (hl : s.legal = true) : s.status.toNat ∈ [0x00, 0x01, 0x02, 0x04, 0x08] := by
  obtain ⟨hstatus, -⟩ := s.legal_iff.1 hl
  obtain ⟨hfault, hdone⟩ := statusLegal_iff.1 hstatus
  rw [toNat_status, toNat_busy]
  cases herr : s.err with
  | none =>
    cases hd : s.done with
    | false => split_ifs <;> decide
    | true => simp [(hdone hd).1, ErrCode.code]
  | invalidInputLength | inputTooLarge =>
    have hp := hfault.2 (by simp [herr])
    have hd : s.done = false := by simpa [herr] using hdone
    simp [hp, hd, ErrCode.code]

/-- Settles O15: STATUS flag by flag. -/
theorem rdStatusReturnsTheFlags : Obligations.RdStatusReturnsTheFlags := by
  intro addr data s
  have hvalue : (zext64 s.status).toNat = s.status.toNat := toNat_zext64 (by decide) _
  refine ⟨_, zext64 s.status, rfl, reply_frame, rfl, ?flags, fun hl => hvalue ▸ toNat_status_of_legal hl⟩
  case flags =>
    rw [hvalue, toNat_status, toNat_busy]
    cases s.done <;> cases s.err <;> rfl

end Sys2Proof.Machine

namespace Sys2Proof.Machine

/-! ## The sequencer and the host's side (45_host_commands.md rules R223, R224) -/

/-- `s` with the events still to come, the replies and the draws of `x`: what the model keeps of the host's side
(log entries 1, 2, 3). -/
def State.withHostSide (s x : State) : State :=
  { s with pending := x.pending, replies := x.replies, draws := x.draws }

theorem sameBut_withHostSide (s x : State) : SameBut [.pending, .replies, .draws] s (s.withHostSide x) := by
  simp [sameBut_iff, State.withHostSide]

/-- A state that differs from `s` on the host's side only is `s` with that side. -/
theorem eq_withHostSide_of_sameBut {s x : State} (h : SameBut [.pending, .replies, .draws] s x) : x = s.withHostSide x := by
  cases s
  cases x
  simp_all [sameBut_iff, State.withHostSide]

/-- A micro-operation whose effect keeps the host's side apart is the same on any other host's side. -/
theorem State.microOp_withHostSide {s u x after after' : State} {p : Phase} (h : s.microOp p after = .next u)
    (heffect : after' = after.withHostSide x) : (s.withHostSide x).microOp p after' = .next (u.withHostSide x) := by
  obtain ⟨⟨hp, hl⟩, rfl⟩ := (State.microOp_next ..).1 h
  exact heffect ▸ State.microOp_runs _ hp hl

/-- An effect with two branches keeps the host's side apart if each of them does and neither its condition asks for it. -/
theorem ite_withHostSide {c c' : Prop} [Decidable c] [Decidable c'] {x a a' b b' : State} (hc : c' ↔ c)
    (ha : a' = a.withHostSide x) (hb : b' = b.withHostSide x) :
    (if c' then a' else b') = (if c then a else b).withHostSide x := by
  rw [apply_ite (State.withHostSide · x), ha, hb]
  exact if_congr hc rfl rfl

section
variable (s x : State)

theorem State.writeBytes_withHostSide (sp : Space) (a : Nat) (bs : List Byte) :
    (s.withHostSide x).writeBytes sp a bs = (s.writeBytes sp a bs).withHostSide x := by
  induction bs generalizing s a with
  | nil => rfl
  | cons b bs ih =>
    have hbyte : (s.withHostSide x).writeByte sp a b = (s.writeByte sp a b).withHostSide x := by cases sp <;> rfl
    rw [State.writeBytes, hbyte, ih, State.writeBytes]

theorem State.appendLength_withHostSide : (s.withHostSide x).appendLength = s.appendLength.withHostSide x := by
  rw [State.appendLength, State.memWrite, State.writeBytes_withHostSide]
  rfl

theorem State.wordEncoded_withHostSide : (s.withHostSide x).wordEncoded = s.wordEncoded.withHostSide x :=
  s.writeBytes_withHostSide x ..

theorem State.endCompression_withHostSide : (s.withHostSide x).endCompression = s.endCompression.withHostSide x :=
  ite_withHostSide Iff.rfl rfl rfl

end

/-- The sequencer's turn does on any host's side what it does on another. -/
theorem exec_phase_withHostSide {p : Phase} {s u : State} (x : State) (h : exec p.instr s = .next u) :
    exec p.instr (s.withHostSide x) = .next (u.withHostSide x) := by
  cases p with
  | idle | fault => cases h; rfl
  | reserved14 => cases h
  | padCopy | padMark | padZero | rndInit => exact State.microOp_withHostSide h rfl
  | padChk => exact State.microOp_withHostSide h (ite_withHostSide Iff.rfl rfl (ite_withHostSide Iff.rfl rfl rfl))
  | cmpChk | msxLoad | msxExp | rndStep => exact State.microOp_withHostSide h (ite_withHostSide Iff.rfl rfl rfl)
  | accIv =>
    exact State.microOp_withHostSide h (ite_withHostSide Iff.rfl rfl (s.loopStarted.endCompression_withHostSide x))
  | accAdd =>
    exact State.microOp_withHostSide h (ite_withHostSide Iff.rfl rfl (s.blockAdded.endCompression_withHostSide x))
  | padLen =>
    refine State.microOp_withHostSide h ?_
    rw [State.appendLength_withHostSide]
    exact ite_withHostSide Iff.rfl rfl rfl
  | hexEnc =>
    refine State.microOp_withHostSide h ?_
    rw [State.wordEncoded_withHostSide]
    exact ite_withHostSide Iff.rfl rfl rfl

/-- Settles O45: the other state is the first with another host's side, on which the sequencer does the same. -/
theorem sequencerIgnoresTheHostsSide : Obligations.SequencerIgnoresTheHostsSide := by
  intro p s s' u hsame hexec
  rw [eq_withHostSide_of_sameBut hsame]
  exact ⟨_, exec_phase_withHostSide s' hexec, sameBut_withHostSide u s'⟩

end Sys2Proof.Machine

namespace Sys2Proof.Machine

/-! ## The HASH command's run (45_host_commands.md rules R202, R222) -/

section
variable {s u : State}

theorem phaseInv_of_idle (hp : s.phase = .idle) (hl : s.legal = true) : s.PhaseInv := by
  obtain ⟨hstatus, -, ht, -⟩ := s.legal_iff.1 hl
  obtain ⟨hfault, -⟩ := statusLegal_iff.1 hstatus
  obtain ⟨-, -, -, hzero⟩ := t_of_tLegal ht
  simp only [hp, reduceCtorEq, false_iff, not_not] at hfault
  simp only [State.PhaseInv, hp]
  exact ⟨hfault, hzero (by simp [hp])⟩

/-- A HASH command alone among the pending events puts the sequencer at the head of the padder, with every later turn its own. -/
theorem hash_accepted (hp : s.phase = .idle) (hl : s.legal = true) (hq : s.pending = [.command 0b001#3]) :
    ∃ u, runSteps 1 s = .next u ∧ PadTurn u ∧ u.phase = .padChk ∧ u.mode = .hash ∧ u.ptr = 0 ∧
      SameBut [.phase, .mode, .ptr, .blk, .t, .done, .pending] s u := by
  have hexec : exec .hash { s with pending := [] } = .next (State.accept { s with pending := [] } .hash .padChk) :=
    startCommand_idle (s := { s with pending := [] }) hp .hash .padChk
  have hstart : ({ s with pending := [] } : State).PhaseInv := phaseInv_of_idle hp hl
  exact ⟨_, runSteps_succ 0 ((step_of_nextTurn (State.nextTurn_command hq)).trans hexec), ⟨exec_phaseInv hstart hexec, rfl⟩,
    rfl, rfl, rfl, by simp [sameBut_iff]⟩

/-- The message rests on MSG and MSG_LEN. -/
theorem message_congr (hmsg : s.msg = u.msg) (hlen : s.msgLen = u.msgLen) : s.message = u.message := by
  rw [State.message, State.message, hlen, State.readBytes_congr fun x _ _ => State.readByte_congr .msg x hmsg]

/-- Under HASH the padder hands the padded message over to the compressor. -/
theorem hash_pads (hs : PadTurn s) (hp : s.phase = .padChk) (hm : s.mode = .hash) (hptr : s.ptr = 0)
    (hsmall : s.msgLen.toNat < 2 ^ 29) :
    ∃ u, runSteps (paddedLength s.msgLen.toNat - 6) s = .next u ∧ PadTurn u ∧ u.phase = .cmpChk ∧ u.mode = .hash ∧
      padMessage s.message = some u.paddedBuffer ∧ u.plen.toNat = paddedLength s.msgLen.toNat ∧
      SameBut [.phase, .ptr, .plen, .pbuf, .done] s u := by
  obtain ⟨u, hrun, hpad, hplen, -, -, hhash, -, hframe⟩ :=
    padderRunPadsTheMessage s hp (State.legal_of_phaseInv hs.inv) hptr hs.quiet hsmall
  have hmode : s.mode = u.mode := hframe .mode (by simp)
  exact ⟨u, hrun, hs.of_run hrun (hframe .pending (by simp)), (hhash hm).1, hmode ▸ hm, hpad, hplen, hframe⟩

/-- Under HASH the compressor, whose check then passes, hands the digest's words over to the encoder. -/
theorem hash_compresses (hs : PadTurn s) (hp : s.phase = .cmpChk) (hm : s.mode = .hash) :
    ∃ u, runSteps (2 + 130 * (s.plen.toNat / 64)) s = .next u ∧ PadTurn u ∧ u.phase = .hexEnc ∧ u.t = 0 ∧
      compressBuffer u.paddedBuffer = some u.h ∧ SameBut [.phase, .blk, .t, .h, .v, .w, .done] s u := by
  have hmul : s.plen.toNat % 64 = 0 := by
    have hinv := hs.inv
    simp only [State.PhaseInv, hp] at hinv
    obtain ⟨-, -, hhash⟩ := hinv
    exact (hhash hm).1
  obtain ⟨u, hrun, hwords, -, ht, hhash, -, hframe⟩ :=
    compressorRunCompressesTheBuffer s hp (State.legal_of_phaseInv hs.inv) hs.quiet hmul
  rw [paddedBuffer_congr (hframe .pbuf (by simp)) (hframe .plen (by simp))] at hwords
  exact ⟨u, hrun, hs.of_run hrun (hframe .pending (by simp)), (hhash hm).1, ht, hwords, hframe⟩

/-- The encoder writes the digest and ends the run well. -/
theorem encoder_ends (hs : PadTurn s) (hp : s.phase = .hexEnc) (ht : s.t = 0) :
    ∃ u, runSteps 8 s = .next u ∧ u.endedWell = true ∧ u.err = .none ∧ u.readBytes .hex 0 64 = encodeHex u.h ∧
      SameBut [.phase, .t, .done, .hex] s u := by
  obtain ⟨u, hrun, hchars, -, hidle, hdone, hframe⟩ :=
    encoderRunWritesTheHexDigest s hp (State.legal_of_phaseInv hs.inv) ht hs.quiet
  have hinv := runSteps_phaseInv hs.inv hrun
  simp only [State.PhaseInv, hidle] at hinv
  have hh : s.h = u.h := hframe .h (by simp)
  exact ⟨u, hrun, by simp [State.endedWell, State.busy, Phase.busy, hidle, hdone], hinv.1, hh ▸ hchars, hframe⟩

end

theorem hashMessage_eq_some {m p : List Byte} {h : Vector Word 8} (hp : padMessage m = some p)
    (hh : compressBuffer p = some h) : hashMessage m = some (encodeHex h) := by
  simp [hashMessage, hp, hh]

/-- Settles O59: the command's acceptance, then the runs of the padder, the compressor and the encoder, each from where the
one before it ends. -/
theorem hashCommandComputesSha256 : Obligations.HashCommandComputesSha256 := by
  intro s hp hl hq hsmall n
  obtain ⟨a, hrunA, ha, hpA, hmA, hptrA, hframeA⟩ := hash_accepted hp hl hq
  have hlenA : s.msgLen = a.msgLen := hframeA .msgLen (by simp)
  obtain ⟨b, hrunB, hb, hpB, hmB, hpadB, hplenB, hframeB⟩ := hash_pads ha hpA hmA hptrA (hlenA ▸ hsmall)
  obtain ⟨c, hrunC, hc, hpC, htC, hwords, hframeC⟩ := hash_compresses hb hpB hmB
  obtain ⟨u, hrunU, hended, herr, hchars, hframeU⟩ := encoder_ends hc hpC htC
  have hplenC : b.plen = c.plen := hframeC .plen (by simp)
  have hplenU : c.plen = u.plen := hframeU .plen (by simp)
  have hbufferC : b.paddedBuffer = c.paddedBuffer := paddedBuffer_congr (hframeC .pbuf (by simp)) hplenC
  have hbufferU : c.paddedBuffer = u.paddedBuffer := paddedBuffer_congr (hframeU .pbuf (by simp)) hplenU
  have hh : c.h = u.h := hframeU .h (by simp)
  rw [← message_congr (hframeA .msg (by simp)) hlenA, hbufferC, hbufferU] at hpadB
  rw [hbufferU, hh] at hwords
  rw [← hlenA] at hrunB hplenB
  rw [hplenB] at hrunC
  refine ⟨u, ?run, hended, herr, ?digest, hwords, hpadB, hplenU ▸ hplenC ▸ hplenB, ?frame⟩
  case run =>
    have hlong : 6 ≤ n := by simp only [n, paddedLength_eq]; omega
    have hsteps : n + 4 + 130 * (n / 64) = n - 6 + (2 + 130 * (n / 64) + 8) := by omega
    rw [hsteps, runSteps_add 1 _ hrunA, runSteps_add _ _ hrunB, runSteps_add _ _ hrunC, hrunU]
  case digest => rw [hashMessage_eq_some hpadB hwords, hchars]
  case frame =>
    exact (hframeA.mono (by simp)).trans <| (hframeB.mono (by simp)).trans <| (hframeC.mono (by simp)).trans <|
      hframeU.mono (by simp)

end Sys2Proof.Machine

namespace Sys2Proof.Machine

/-! ## Commands that fault (60_exceptions.md rules R240 to R243) -/

section
variable {s : State} {code : BitVec 3} {m : Mode} {p : Phase} {e : ErrCode}

/-- In FAULT neither BUSY nor DONE is set, so STATUS shows ERR alone (10_state.md rules R31, R42). -/
theorem status_of_fault (hs : s.PhaseInv) (hp : s.phase = .fault) :
    s.status = 0b0000#4 ++ ErrCode.code s.err ++ 0b00#2 := by
  simp only [State.PhaseInv, hp] at hs
  obtain ⟨hdone, -, -⟩ := hs
  have hbusy : s.busy = false := by rw [State.busy, hp]; rfl
  rw [State.status, hdone, hbusy]
  cases s.err <;> rfl

theorem endedInFault_of_fault (hs : s.PhaseInv) (hp : s.phase = .fault) : s.endedInFault = true := by
  simp only [State.PhaseInv, hp] at hs
  obtain ⟨-, herr, -⟩ := hs
  simp [State.endedInFault, State.busy, Phase.busy, hp, herr]

/-- A working command alone among the pending events puts the sequencer at its first phase, with every later turn its own. -/
theorem command_accepted (hcmd : ∀ x, exec (decode (.cmd code)) x = startCommand m p x) (hp : s.phase = .idle)
    (hl : s.legal = true) (hq : s.pending = [.command code]) :
    ∃ u, runSteps 1 s = .next u ∧ PadTurn u ∧ u.phase = p ∧ SameBut [.phase, .mode, .ptr, .blk, .t, .done, .pending] s u := by
  have hexec : exec (decode (.cmd code)) { s with pending := [] } = .next (State.accept { s with pending := [] } m p) :=
    (hcmd _).trans (startCommand_idle (s := { s with pending := [] }) hp m p)
  have hstart : ({ s with pending := [] } : State).PhaseInv := phaseInv_of_idle hp hl
  exact ⟨_, runSteps_succ 0 ((step_of_nextTurn (State.nextTurn_command hq)).trans hexec), ⟨exec_phaseInv hstart hexec, rfl⟩,
    rfl, by simp [sameBut_iff]⟩

/-- A working command whose first micro-operation raises `e` on the lengths of `s` ends in that fault, which its second step
raises: of what a program sees, the command writes STATUS alone (60_exceptions.md rule R243). -/
theorem command_faults (hcmd : ∀ x, exec (decode (.cmd code)) x = startCommand m p x)
    (hcheck : ∀ a, a.phase = p → a.legal = true → s.msgLen = a.msgLen → s.plen = a.plen →
      ∃ u, exec p.instr a = .next u ∧ u.phase = .fault ∧ u.err = e ∧ SameBut [.phase, .err] a u)
    (hp : s.phase = .idle) (hl : s.legal = true) (hq : s.pending = [.command code]) :
    ∃ u, runSteps 2 s = .next u ∧ u.endedInFault = true ∧ u.phase = .fault ∧ u.err = e ∧
      u.status = 0b0000#4 ++ ErrCode.code e ++ 0b00#2 ∧
      SameBut [.phase, .mode, .ptr, .blk, .t, .done, .err, .pending] s u := by
  obtain ⟨a, hrun, ha, hpa, haccept⟩ := command_accepted hcmd hp hl hq
  obtain ⟨u, hu, hfault, rfl, hraise⟩ :=
    hcheck a hpa (State.legal_of_phaseInv ha.inv) (haccept .msgLen (by simp)) (haccept .plen (by simp))
  have hinv : u.PhaseInv := exec_phaseInv ha.inv hu
  exact ⟨u, (runSteps_add 1 1 hrun).trans (ha.runSteps_one hpa hu), endedInFault_of_fault hinv hfault, hfault, rfl,
    status_of_fault hinv hfault, (haccept.mono (by simp)).trans (hraise.mono (by simp))⟩

end

/-- Settles O60: HASH and PAD start at PAD.CHK, which MSG_LEN fails, and COMPRESS at CMP.CHK, which PLEN fails. -/
theorem refusedCommandLeavesTheData : Obligations.RefusedCommandLeavesTheData := by
  intro s code hp hl hq
  constructor
  · rintro ⟨hcode, hlarge⟩
    have hcmd : ∃ m, ∀ x, exec (decode (.cmd code)) x = startCommand m .padChk x := by
      obtain rfl | rfl := hcode
      · exact ⟨.hash, fun _ => rfl⟩
      · exact ⟨.pad, fun _ => rfl⟩
    obtain ⟨m, hcmd⟩ := hcmd
    refine command_faults hcmd (fun a hpa hla hlen _ => ?_) hp hl hq
    obtain ⟨u, hu, hfault, -⟩ := padChkChecksTheSize a hpa hla
    exact ⟨u, hu, hfault (hlen ▸ hlarge)⟩
  · rintro ⟨rfl, hpart⟩
    have hcmd : ∀ x, exec (decode (.cmd 3#3)) x = startCommand .compress .cmpChk x := fun _ => rfl
    refine command_faults hcmd (fun a hpa hla _ hlen => ?_) hp hl hq
    obtain ⟨u, hu, hfault, -⟩ := cmpChkChecksTheLength a hpa hla
    exact ⟨u, hu, hfault (hlen ▸ hpart)⟩

end Sys2Proof.Machine

namespace Sys2Proof.Machine

/-! ## Progress (70_reset_and_hazards.md rule R276) -/

/-- Inside the invariant the sequencer's turn has an effect: in IDLE and in FAULT none but to wait, in every other PHASE that of the
micro-operation, which `State.legal` keeps from being refused. -/
theorem exec_phase_next {s : State} (hs : s.Inv) : ∃ u, exec s.phase.instr s = .next u := by
  by_cases hidle : s.phase = .idle
  · rw [hidle]
    exact ⟨s, rfl⟩
  by_cases hfault : s.phase = .fault
  · rw [hfault]
    exact ⟨s, rfl⟩
  obtain ⟨after, hexec⟩ := exec_phase_instr hidle hfault hs.notReserved s
  exact ⟨after, hexec.trans (State.microOp_runs after rfl hs.legal)⟩

/-- Settles O43: commands, accesses and the reset input answer a next state from every state, and the sequencer's turn does so
from every state of the invariant, which taking the event keeps. -/
theorem everyStepOfARunAnswersNext : Obligations.EveryStepOfARunAnswersNext := by
  intro s hs
  rcases hq : s.pending with _ | ⟨event, rest⟩
  · obtain ⟨u, hu⟩ := exec_phase_next hs
    rw [step_of_nextTurn (State.nextTurn_nil hq), decode_phase_code]
    exact ⟨u, hu⟩
  cases event with
  | sequencer =>
    obtain ⟨u, hu⟩ := exec_phase_next ((inv_pending rest).2 hs)
    rw [step_of_nextTurn (State.nextTurn_sequencer hq), decode_phase_code]
    exact ⟨u, hu⟩
  | access word =>
    obtain ⟨u, hu⟩ := access_next (Access.unpack word) { s with pending := rest }
    exact ⟨u, (step_of_nextTurn (State.nextTurn_access hq)).trans hu⟩
  | command code =>
    obtain ⟨u, hu⟩ := runCommand_next (Command.ofCode code) { s with pending := rest }
    rw [runCommand_eq_exec] at hu
    exact ⟨u, (step_of_nextTurn (State.nextTurn_command hq)).trans hu⟩
  | resetInput => exact ⟨_, step_resetInput hq⟩

/-! ## The two triggers of the reset event (70_reset_and_hazards.md rule R270) -/

@[simp] theorem State.resetEvent_busy (s : State) : s.resetEvent.busy = false := rfl

/-- After the reset event BUSY, DONE and ERR are all zero (10_state.md rule R31). -/
theorem State.resetEvent_status (s : State) : s.resetEvent.status = 0x00#8 := by
  simp [State.status, ErrCode.code]

/-- Settles O10: RST and the reset input both answer `State.resetEvent`, whose control values and frame are read off it. -/
theorem resetEventFromBothTriggers : Obligations.ResetEventFromBothTriggers :=
  fun s => ⟨⟨s.resetEvent, rfl, rfl, rfl, rfl, rfl, rfl, rfl, rfl, rfl, rfl, State.resetEvent_busy s, State.resetEvent_status s, rfl,
    resetEvent_frame⟩, fun _ h => ⟨_, step_resetInput h, rfl⟩⟩

end Sys2Proof.Machine
